-- ==== Sys2Proof/Word.lean ====
section
/-! DEFINITION. The machine's words: bytes, 16-bit words and register numbers (R6, R11). -/

namespace Sys2Proof

/-- A memory byte, or the contents of a `V` register or a timer (R11, R18, R30). -/
abbrev Byte := BitVec 8

/-- An instruction word, or the contents of `I`, `pc` or a stack slot (R13, R14, R16, R45). -/
abbrev Word := BitVec 16

/-- The number of a general register: `V[0]` to `V[15]` (R11). -/
abbrev Reg := Fin 16

end Sys2Proof
end

