-- ==== Sys2Proof/Decode.lean ====
section
/-! DEFINITION. From words to instructions and back (R45 to R52): the opcode map with its masks, the decoder, total
on any bytes and rejecting by name, and the encoder. -/

namespace Sys2Proof

/-! ### Fields of an instruction word (R6, R46) -/

/-- `class = w[15:12]`. -/
def fieldClass (w : Word) : BitVec 4 := w.extractLsb' 12 4

/-- `x = w[11:8]`. -/
def fieldX (w : Word) : Reg := (w.extractLsb' 8 4).toFin

/-- `y = w[7:4]`. -/
def fieldY (w : Word) : Reg := (w.extractLsb' 4 4).toFin

/-- `n = w[3:0]`, a count of rows. -/
def fieldN (w : Word) : Nat := (w.extractLsb' 0 4).toNat

/-- `nn = w[7:0]`. -/
def fieldNN (w : Word) : Byte := w.extractLsb' 0 8

/-- `nnn = w[11:0]`. -/
def fieldNNN (w : Word) : BitVec 12 := w.extractLsb' 0 12

/-! ### Placing fields in a word -/

/-- A field of a word whose lowest bit is bit `pos` (R6). -/
def fieldAt {n : Nat} (v : BitVec n) (pos : Nat) : Word := v.setWidth 16 <<< pos

/-- The word two bytes in memory are: the one at the lower address is the high byte (R33). -/
def bytesWord (hi lo : Byte) : Word := fieldAt hi 8 ||| fieldAt lo 0

/-- The two bytes of a word as they lie in memory, high byte at the lower address (R33). -/
def wordBytes (w : Word) : List Byte := [w.extractLsb' 8 8, w.extractLsb' 0 8]

/-! ### The opcode map (R50) -/

/-- A row of the opcode map: `w` is the row's instruction when `(w AND mask) == pattern` (R48). -/
structure OpcodeRow where
  mnemonic : String
  mask : Word
  pattern : Word
  build : Word → Instr

/-- Does the word select this row (R48)? -/
def OpcodeRow.selects (r : OpcodeRow) (w : Word) : Bool := w &&& r.mask == r.pattern

/-- Rows of classes 0x0 to 0x7. -/
def opcodeRowsLow : List OpcodeRow :=
  [⟨"CLS",         0xFFFF, 0x00E0, fun _ => .cls⟩,
   ⟨"RET",         0xFFFF, 0x00EE, fun _ => .ret⟩,
   ⟨"JP_nnn",      0xF000, 0x1000, fun w => .jp (fieldNNN w)⟩,
   ⟨"CALL_nnn",    0xF000, 0x2000, fun w => .call (fieldNNN w)⟩,
   ⟨"SE_Vx__nn",   0xF000, 0x3000, fun w => .seImm (fieldX w) (fieldNN w)⟩,
   ⟨"SNE_Vx__nn",  0xF000, 0x4000, fun w => .sneImm (fieldX w) (fieldNN w)⟩,
   ⟨"SE_Vx__Vy",   0xF00F, 0x5000, fun w => .seReg (fieldX w) (fieldY w)⟩,
   ⟨"LD_Vx__nn",   0xF000, 0x6000, fun w => .ldImm (fieldX w) (fieldNN w)⟩,
   ⟨"ADD_Vx__nn",  0xF000, 0x7000, fun w => .addImm (fieldX w) (fieldNN w)⟩]

/-- Rows of class 0x8. -/
def opcodeRowsAlu : List OpcodeRow :=
  [⟨"LD_Vx__Vy",   0xF00F, 0x8000, fun w => .ldReg (fieldX w) (fieldY w)⟩,
   ⟨"OR_Vx__Vy",   0xF00F, 0x8001, fun w => .orReg (fieldX w) (fieldY w)⟩,
   ⟨"AND_Vx__Vy",  0xF00F, 0x8002, fun w => .andReg (fieldX w) (fieldY w)⟩,
   ⟨"XOR_Vx__Vy",  0xF00F, 0x8003, fun w => .xorReg (fieldX w) (fieldY w)⟩,
   ⟨"ADD_Vx__Vy",  0xF00F, 0x8004, fun w => .addReg (fieldX w) (fieldY w)⟩,
   ⟨"SUB_Vx__Vy",  0xF00F, 0x8005, fun w => .subReg (fieldX w) (fieldY w)⟩,
   ⟨"SHR_Vx",      0xF00F, 0x8006, fun w => .shr (fieldX w) (fieldY w)⟩,
   ⟨"SUBN_Vx__Vy", 0xF00F, 0x8007, fun w => .subnReg (fieldX w) (fieldY w)⟩,
   ⟨"SHL_Vx",      0xF00F, 0x800E, fun w => .shl (fieldX w) (fieldY w)⟩]

/-- Rows of classes 0x9 to 0xD. -/
def opcodeRowsMid : List OpcodeRow :=
  [⟨"SNE_Vx__Vy",    0xF00F, 0x9000, fun w => .sneReg (fieldX w) (fieldY w)⟩,
   ⟨"LD_I__nnn",     0xF000, 0xA000, fun w => .ldI (fieldNNN w)⟩,
   ⟨"JP_V0__nnn",    0xF000, 0xB000, fun w => .jpV0 (fieldNNN w)⟩,
   ⟨"RND_Vx__nn",    0xF000, 0xC000, fun w => .rnd (fieldX w) (fieldNN w)⟩,
   ⟨"DRW_Vx__Vy__n", 0xF000, 0xD000, fun w => .drw (fieldX w) (fieldY w) (fieldN w)⟩]

/-- Rows of classes 0xE and 0xF. -/
def opcodeRowsHigh : List OpcodeRow :=
  [⟨"SKP_Vx",     0xF0FF, 0xE09E, fun w => .skp (fieldX w)⟩,
   ⟨"SKNP_Vx",    0xF0FF, 0xE0A1, fun w => .sknp (fieldX w)⟩,
   ⟨"LD_Vx__DT",  0xF0FF, 0xF007, fun w => .ldVxDT (fieldX w)⟩,
   ⟨"LD_Vx__K",   0xF0FF, 0xF00A, fun w => .ldVxK (fieldX w)⟩,
   ⟨"LD_DT__Vx",  0xF0FF, 0xF015, fun w => .ldDTVx (fieldX w)⟩,
   ⟨"LD_ST__Vx",  0xF0FF, 0xF018, fun w => .ldSTVx (fieldX w)⟩,
   ⟨"ADD_I__Vx",  0xF0FF, 0xF01E, fun w => .addI (fieldX w)⟩,
   ⟨"LD_F__Vx",   0xF0FF, 0xF029, fun w => .ldF (fieldX w)⟩,
   ⟨"LD_B__Vx",   0xF0FF, 0xF033, fun w => .ldB (fieldX w)⟩,
   ⟨"LD__I___Vx", 0xF0FF, 0xF055, fun w => .stRegs (fieldX w)⟩,
   ⟨"LD_Vx___I",  0xF0FF, 0xF065, fun w => .ldRegs (fieldX w)⟩]

/-- The complete opcode map: 34 rows, the order of the source's table (R50). -/
def opcodeTable : List OpcodeRow :=
  opcodeRowsLow ++ opcodeRowsAlu ++ opcodeRowsMid ++ opcodeRowsHigh

/-! ### The decoder (R48) -/

/-- The instruction a word selects, or none (R48: strict, on the full pattern; log 10). -/
def decodeWord (w : Word) : Option Instr :=
  (opcodeTable.find? (fun r => r.selects w)).map (fun r => r.build w)

/-- Why bytes are no instruction. -/
inductive Reject where
  /-- No row of the opcode map matches: `UnknownOpcode(class, raw_word)` (R48, R51, R114). -/
  | unknownOpcode (cls : BitVec 4) (raw : Word)
  /-- Fewer than the two bytes every instruction has (R45); the model's own name, which no cycle answers with (log 29). -/
  | truncated
  deriving DecidableEq, Repr

/-- What the decoder answers. -/
inductive Decoded where
  | accept (i : Instr)
  | reject (why : Reject)
  deriving DecidableEq, Repr

/-- Decoding bytes, total: the first two are the word, high byte first (R33, R45). -/
def decode : List Byte → Decoded
  | hi :: lo :: _ =>
    match decodeWord (bytesWord hi lo) with
    | some i => .accept i
    | none => .reject (.unknownOpcode (fieldClass (bytesWord hi lo)) (bytesWord hi lo))
  | _ => .reject .truncated

/-- What the decoder reads from the instruction whose bits are `w`, numbered as spec/opcode_table.json numbers them
(one 16-bit word); bits at or above `nbits` are 0. -/
def decodeTableWord (nbits w : Nat) : Option Instr :=
  match decode (wordBytes (BitVec.ofNat 16 (w % 2 ^ nbits))) with
  | .accept i => some i
  | .reject _ => none

/-! ### The encoder (R46, R50) -/

/-- A register number in its 4-bit field. -/
def regBits (x : Reg) : BitVec 4 := BitVec.ofFin x

/-- Format `XNN`: class, `x`, `nn` (R46). -/
def wordXNN (cls : BitVec 4) (x : Reg) (nn : Byte) : Word :=
  fieldAt cls 12 ||| fieldAt (regBits x) 8 ||| fieldAt nn 0

/-- Formats `XYS` and `XYN`: class, `x`, `y`, a low nibble (R46). -/
def wordXYN (cls : BitVec 4) (x y : Reg) (low : BitVec 4) : Word :=
  fieldAt cls 12 ||| fieldAt (regBits x) 8 ||| fieldAt (regBits y) 4 ||| fieldAt low 0

/-- Format `NNN`: class, a 12-bit address (R46). -/
def wordNNN (cls : BitVec 4) (nnn : BitVec 12) : Word := fieldAt cls 12 ||| fieldAt nnn 0

/-- The word of a well-formed instruction (R50). -/
def encode : Instr → Word
  | .cls => 0x00E0
  | .ret => 0x00EE
  | .jp nnn => wordNNN 0x1 nnn
  | .call nnn => wordNNN 0x2 nnn
  | .seImm x nn => wordXNN 0x3 x nn
  | .sneImm x nn => wordXNN 0x4 x nn
  | .seReg x y => wordXYN 0x5 x y 0x0
  | .ldImm x nn => wordXNN 0x6 x nn
  | .addImm x nn => wordXNN 0x7 x nn
  | .ldReg x y => wordXYN 0x8 x y 0x0
  | .orReg x y => wordXYN 0x8 x y 0x1
  | .andReg x y => wordXYN 0x8 x y 0x2
  | .xorReg x y => wordXYN 0x8 x y 0x3
  | .addReg x y => wordXYN 0x8 x y 0x4
  | .subReg x y => wordXYN 0x8 x y 0x5
  | .shr x y => wordXYN 0x8 x y 0x6
  | .subnReg x y => wordXYN 0x8 x y 0x7
  | .shl x y => wordXYN 0x8 x y 0xE
  | .sneReg x y => wordXYN 0x9 x y 0x0
  | .ldI nnn => wordNNN 0xA nnn
  | .jpV0 nnn => wordNNN 0xB nnn
  | .rnd x nn => wordXNN 0xC x nn
  | .drw x y n => wordXYN 0xD x y (BitVec.ofNat 4 n)
  | .skp x => wordXNN 0xE x 0x9E
  | .sknp x => wordXNN 0xE x 0xA1
  | .ldVxDT x => wordXNN 0xF x 0x07
  | .ldVxK x => wordXNN 0xF x 0x0A
  | .ldDTVx x => wordXNN 0xF x 0x15
  | .ldSTVx x => wordXNN 0xF x 0x18
  | .addI x => wordXNN 0xF x 0x1E
  | .ldF x => wordXNN 0xF x 0x29
  | .ldB x => wordXNN 0xF x 0x33
  | .stRegs x => wordXNN 0xF x 0x55
  | .ldRegs x => wordXNN 0xF x 0x65

end Sys2Proof
end

