-- ==== Sys2Proof/Config.lean ====
section
/-! DEFINITION. What an implementation fixes (R5) and the values the spec leaves free (R82). -/

namespace Sys2Proof

/-- `MEM_SIZE`: addresses 0x000 to 0xFFF (R5, R30). -/
abbrev Config.memSize : Nat := 4096

/-- `PROG_BASE`: where a program image is loaded and where `pc` starts (R5, R32). -/
abbrev Config.progBase : Nat := 0x200

/-- `PROG_MAX`: the largest program image, `4096 - 512` bytes (R5, R143). -/
abbrev Config.progMax : Nat := 3584

/-- `FB_CELLS`: 64 x 32 framebuffer cells (R5, R21). -/
abbrev Config.fbCells : Nat := 2048

/-- `FONT_LEN`: the font set fills `memory[0..80)` (R5, R32). -/
abbrev Config.fontLen : Nat := 80

/-- Glyphs 0 to 7 of the default font. -/
def Config.fontLow : List Byte :=
  [0xF0, 0x90, 0x90, 0x90, 0xF0,  0x20, 0x60, 0x20, 0x20, 0x70,
   0xF0, 0x10, 0xF0, 0x80, 0xF0,  0xF0, 0x10, 0xF0, 0x10, 0xF0,
   0x90, 0x90, 0xF0, 0x10, 0x10,  0xF0, 0x80, 0xF0, 0x10, 0xF0,
   0xF0, 0x80, 0xF0, 0x90, 0xF0,  0xF0, 0x10, 0x20, 0x40, 0x40]

/-- Glyphs 8 to F of the default font. -/
def Config.fontHigh : List Byte :=
  [0xF0, 0x90, 0xF0, 0x90, 0xF0,  0xF0, 0x90, 0xF0, 0x10, 0xF0,
   0xF0, 0x90, 0xF0, 0x90, 0x90,  0xE0, 0x90, 0xE0, 0x90, 0xE0,
   0xF0, 0x80, 0x80, 0x80, 0xF0,  0xE0, 0x90, 0x90, 0x90, 0xE0,
   0xF0, 0x80, 0xF0, 0x80, 0xF0,  0xF0, 0x80, 0xF0, 0x80, 0x80]

/-- `FONT`: the 80 bytes reset copies to `memory[0..80)` (R5, R23, R26). The bytes are the default the spec lists for
this parameter in 93_implementation_defined.md U1. PRESUMED (the spec marks the default as general knowledge), unsafe:
log 1. No statement rests on a value of it. -/
def Config.font : List Byte := Config.fontLow ++ Config.fontHigh

/-- The random byte of the `k`-th `Cxnn` for which the host named none: any value 0 to 255, under no law (R82, D11).
A free value: it has no body, so nothing can be proved of it. Log 2. -/
opaque Config.freeRnd : Nat → Byte

end Sys2Proof
end

