-- ==== Sys2Proof/Machine/State.lean ====
section
/-! DEFINITION. The Machine State (R10 to R28), the reasons a step can stop (R110), and the state after reset (R26).
State.lean holds types and `reset` only; every operation on them stands in Ops.lean and after. -/

namespace Sys2Proof.Machine

/-- Memory as the canonical list of the bytes that differ from the reset contents, by rising address (log 7).
Its operations and its canonical form `Memory.wf` are in Ops.lean. -/
abbrev Memory := List Host.Cell

/-- The error results (R110). Each ends the cycle with the Machine State as it was (R116), so no state is attached.
All five are the spec's own: stopping there is safe (R117's advice, log 4). -/
inductive Fault where
  /-- `pc`, a memory range, a framebuffer cell or a key index out of range (R111): raised by the fetch, `Dxyn`, `Fx33`,
  `Fx55`, `Fx65`, `Ex9E`, `ExA1`. Safe. -/
  | outOfBounds
  /-- Raised by `2nnn` with `sp == 16` (R112). Safe. -/
  | stackOverflow
  /-- Raised by `00EE` with `sp == 0` (R113). Safe. -/
  | stackUnderflow
  /-- Raised by the decode of a word that matches no row (R114), with its class and the word. Safe. -/
  | unknownOpcode (cls : BitVec 4) (raw : Word)
  /-- Raised by the host's `Load` of an image over 3584 bytes, by no cycle (R115, R143). Safe. -/
  | loadError
  deriving DecidableEq, Repr

/-- Reasons to give no meaning. Every instruction has its meaning, so nothing in this model answers with one. -/
inductive Refusal where
  /-- Raised by an arm of `exec` whose instruction has no meaning yet: there is none. Safe. -/
  | notModelled (mnemonic : String)
  deriving DecidableEq, Repr

/-- The Machine State: "exactly these elements" (R10, R24). -/
structure MachineState where
  /-- `memory` (R23, R30). -/
  mem : Memory
  /-- `V[0]` to `V[15]`; `V[15]` is also the flag (R11, R12). -/
  V : Vector Byte 16
  /-- The index register (R13). -/
  I : Word
  /-- The program counter (R14). -/
  pc : Word
  /-- The return-address stack (R16). -/
  stack : Vector Word 16
  /-- The stack pointer, `0 ≤ sp ≤ 16`, the next free slot (R17; log 5). -/
  sp : Fin 17
  /-- `delay_timer` (R18). -/
  delayTimer : Byte
  /-- `sound_timer` (R19). -/
  soundTimer : Byte
  /-- `keypad[k]`: key `k` is held (R20). -/
  keypad : Vector Bool 16
  /-- `fb`: 32 rows of 64 one-bit pixels, column 0 in bit 0 of its row (R21; log 6). -/
  fb : Vector (BitVec 64) 32
  /-- `draw_pending` (R22). -/
  drawPending : Bool
  deriving DecidableEq, Repr

/-- The operations by which the host drives the core (R128). -/
inductive HostOp where
  /-- `Reset` (R140). -/
  | reset
  /-- `Load(bytes)` (R143). -/
  | load (bytes : List Byte)
  /-- `Cycle(rnd)` (R130). -/
  | cycle (rnd : Byte)
  /-- `Tick` (R125). -/
  | tick
  /-- `SetKey(k, held)` (R131). -/
  | setKey (k : Fin 16) (held : Bool)
  /-- `AckDraw` (R132). -/
  | ackDraw
  /-- `Observe` (R133). -/
  | observe
  deriving DecidableEq, Repr

/-- What an operation returns to the host (R110, R128). -/
inductive HostResult where
  /-- Code 0: the operation completed and returns nothing else. -/
  | ok
  /-- Codes 1 to 5: the operation failed and changed nothing (R116). -/
  | error (f : Fault)
  /-- The event of a tick that takes the sound timer from 1 to 0 (R126). -/
  | soundStopped
  /-- A copy of the Machine State and the sound signal (R127, R133). -/
  | observed (m : MachineState) (soundOn : Bool)
  deriving DecidableEq, Repr

/-- The Machine State together with the model's own record of the world around the core. -/
structure State extends MachineState where
  /-- How many free random bytes have been drawn: the index of the next `Config.freeRnd` (R82; log 2). -/
  draws : Nat
  /-- The `rnd` input of the Cycle in progress, where the host named one (R82, R130; log 2). -/
  rndIn : Option Byte
  /-- Operations the host has requested and that are not yet performed, oldest first (R128, R129; log 3). -/
  pending : List HostOp
  /-- Results returned for the performed requests, oldest first (R126, R133; log 21). -/
  outputs : List HostResult
  deriving DecidableEq, Repr

/-- The state after `Reset` (R26, R140). Memory lists nothing: an unlisted address reads as reset leaves it. -/
def State.reset : State where
  mem := []
  V := Vector.replicate 16 0
  I := 0
  pc := 0x200
  stack := Vector.replicate 16 0
  sp := 0
  delayTimer := 0
  soundTimer := 0
  keypad := Vector.replicate 16 false
  fb := Vector.replicate 32 0
  drawPending := false
  draws := 0
  rndIn := none
  pending := []
  outputs := []

end Sys2Proof.Machine
end

