-- ==== Sys2Proof/Machine/Ops.lean ====
section
/-! DEFINITION. The named operations over memory, registers, stack and `pc`, and the raising of an error
(R7, R30 to R43, R60, R116). -/

namespace Sys2Proof.Machine

/-- What a cycle, an instruction or a request answers. -/
abbrev Result := Host.Outcome State Fault Refusal

/-! ### Memory (R23, R30) -/

/-- What an unlisted address reads as: its contents after reset, `FONT` below 80 and zero above (R23, R26). -/
def Memory.unlisted (a : Nat) : Byte := Config.font.getD a 0

/-- `memory[a]`. -/
def Memory.read : Memory → Nat → Byte
  | [], a => Memory.unlisted a
  | (k, b) :: m, a => if k = a then b else Memory.read m a

/-- Drops every entry for `a`. -/
def Memory.erase : Memory → Nat → Memory
  | [], _ => []
  | (k, b) :: m, a => if k = a then Memory.erase m a else (k, b) :: Memory.erase m a

/-- Puts an entry for `a` before the first higher address. -/
def Memory.insert : Memory → Nat → Byte → Memory
  | [], a, b => [(a, b)]
  | (k, c) :: m, a, b => if a < k then (a, b) :: (k, c) :: m else (k, c) :: Memory.insert m a b

/-- `memory[a] <- b`, keeping the canonical form: a byte equal to the unlisted one leaves no entry. -/
def Memory.write (m : Memory) (a : Nat) (b : Byte) : Memory :=
  if b = Memory.unlisted a then m.erase a else (m.erase a).insert a b

/-- Bytes at `a`, `a+1`, ... in ascending order (R33, R37). -/
def Memory.writeBytes : Memory → Nat → List Byte → Memory
  | m, _, [] => m
  | m, a, b :: bs => Memory.writeBytes (m.write a b) (a + 1) bs

/-- The canonical form: addresses strictly rising, inside memory, and no entry equal to the unlisted byte. -/
abbrev Memory.wf (m : Memory) : Prop :=
  m.Pairwise (fun c d => c.1 < d.1) ∧ ∀ c ∈ m, c.1 < Config.memSize ∧ c.2 ≠ Memory.unlisted c.1

/-- `MemRead(a, 1)` (R7). -/
def State.memRead (s : State) (a : Nat) : Byte := s.mem.read a

/-- `MemWrite(a, 1, b0); MemWrite(a+1, 1, b1); ...` (R7, R37). -/
def State.memWrite (s : State) (a : Nat) (bs : List Byte) : State :=
  { s with mem := s.mem.writeBytes a bs }

/-- `MemCheck(addr, len)` passes: the range is empty or ends by 4096, on unbounded integers (R7, R36). -/
def memCheck (addr len : Nat) : Bool := len == 0 || decide (addr + len ≤ Config.memSize)

/-! ### Errors (R110, R116) -/

/-- Error entry: the cycle ends with error `f` and no state changes. "Nothing is saved anywhere, no mode changes, no
stack is used, control goes nowhere" (R116); there is no return from an error (R117). -/
def raise (f : Fault) : Result := .fault f

/-- `MemCheck(addr, len)`, then `k` (R36: the check precedes every effect). -/
def withMemCheck (addr len : Nat) (k : Result) : Result :=
  if memCheck addr len then k else raise .outOfBounds

/-! ### Registers (R11, R13, R14, R18, R19) -/

/-- `V[x]`. -/
def State.getV (s : State) (x : Reg) : Byte := s.V[x.val]

/-- `V[x] <- v`. -/
def State.setV (s : State) (x : Reg) (v : Byte) : State := { s with V := s.V.set x.val v }

/-- `FLAG_REG`: the index of the flag register `V[0xF]` (R5, R12). -/
abbrev flagReg : Reg := 15

/-- `I <- v`. -/
def State.setI (s : State) (v : Word) : State := { s with I := v }

/-- `pc <- target`. -/
def State.setPc (s : State) (target : Word) : State := { s with pc := target }

/-- `delay_timer <- v`. -/
def State.setDelay (s : State) (v : Byte) : State := { s with delayTimer := v }

/-- `sound_timer <- v`. -/
def State.setSound (s : State) (v : Byte) : State := { s with soundTimer := v }

/-- `keypad[k] <- held` (R131). -/
def State.setKey (s : State) (k : Fin 16) (held : Bool) : State :=
  { s with keypad := s.keypad.set k.val held }

/-- `keypad[k]`. -/
def State.keyHeld (s : State) (k : Fin 16) : Bool := s.keypad[k.val]

/-- `draw_pending <- b`. -/
def State.setDrawPending (s : State) (b : Bool) : State := { s with drawPending := b }

/-- Registers `V[0]` to `V[x]` taken from the bytes at `a`, those above `x` kept (R90). -/
def State.loadRegs (s : State) (x : Reg) (a : Nat) : State :=
  { s with V := Vector.ofFn fun k => if k ≤ x then s.memRead (a + k.val) else s.getV k }

/-- The contents of `V[0]` to `V[x]`, in order (R89). -/
def State.firstRegs (s : State) (x : Reg) : List Byte := s.V.toList.take (x.val + 1)

/-! ### Framebuffer (R21) -/

/-- `fb[k]`, with `k = column + 64 * row`; false outside the framebuffer. -/
def State.cell (s : State) (k : Nat) : Bool :=
  if h : k / 64 < 32 then s.fb[k / 64].getLsbD (k % 64) else false

/-- The columns of row `r` that a list of cell indices names. -/
def rowMask (r : Nat) : List Nat → BitVec 64
  | [] => 0
  | k :: ks => if k / 64 = r then BitVec.twoPow 64 (k % 64) ||| rowMask r ks else rowMask r ks

/-- `for each k in S: fb[k] <- fb[k] XOR 1`, for the set `S` of the listed indices (R94). -/
def State.xorCells (s : State) (S : List Nat) : State :=
  { s with fb := Vector.ofFn fun r => s.fb[r.val] ^^^ rowMask r.val S }

/-- `for k in 0 .. 2047: fb[k] <- 0` (R93). -/
def State.clearCells (s : State) : State := { s with fb := Vector.replicate 32 0 }

/-! ### Stack (R16, R17) -/

/-- `stack[sp] <- pc; sp <- sp + 1`, or none when `sp == 16` (R63). -/
def State.pushPc (s : State) : Option State :=
  if h : s.sp.val < 16 then
    some { s with stack := s.stack.set s.sp.val s.pc, sp := ⟨s.sp.val + 1, by omega⟩ }
  else none

/-- `stack[sp-1]` and `sp <- sp - 1`, or none when `sp == 0`; the slot keeps its value (R16, R61; log 17). -/
def State.pop (s : State) : Option (Word × State) :=
  if h : s.sp.val = 0 then none
  else some (s.stack[s.sp.val - 1], { s with sp := ⟨s.sp.val - 1, by omega⟩ })

/-! ### How `pc` moves (R60) -/

/-- `next`: `pc <- pc + 2` (R7, R60). -/
def State.advance (s : State) : State := s.setPc (s.pc + 2)

/-- `skip`: `pc <- pc + 4` (R7, R60). -/
def State.skip (s : State) : State := s.setPc (s.pc + 4)

/-- `if c then skip else next`. -/
def skipIf (c : Bool) (s : State) : Result := .next (if c then s.skip else s.advance)

/-! ### Fetch (R33, R34) -/

/-- A fetch succeeds exactly when both bytes exist (R34). -/
def State.fetchable (s : State) : Bool := decide (s.pc.toNat + 1 < Config.memSize)

/-- `MemRead(pc, 2)`: big-endian, at any parity of `pc`; none when `pc + 1 >= 4096` (R33, R34, R35). -/
def State.fetchWord (s : State) : Option Word :=
  if s.fetchable then some (bytesWord (s.memRead s.pc.toNat) (s.memRead (s.pc.toNat + 1))) else none

end Sys2Proof.Machine
end

