-- ==== Sys2Proof/Machine/Flags.lean ====
section
/-! DEFINITION. Every flag computation (R12, R70): from the operands before the operation, never from the result. -/

namespace Sys2Proof.Machine

/-- A flag as the byte 0 or 1 that `V[0xF]` receives (R12). -/
def flagByte (f : Bool) : Byte := if f then 1 else 0

/-- Carry of `a + b`: the true sum exceeds 255 (R70, R77). -/
def carry (a b : Byte) : Bool := decide (a.toNat + b.toNat > 255)

/-- NOT borrow of `minuend - subtrahend`: false when the subtrahend is strictly greater (R70, R78, R80). -/
def notBorrow (minuend subtrahend : Byte) : Bool := !decide (subtrahend.toNat > minuend.toNat)

/-- The bit a right shift shifts out (R79). -/
def lowBit (a : Byte) : Bool := a.getLsbD 0

/-- The bit a left shift shifts out (R81). -/
def highBit (a : Byte) : Bool := a.getLsbD 7

/-- Collision: a cell of the set `S` was set before the draw (R94). -/
def collision (s : State) (S : List Nat) : Bool := S.any fun k => s.cell k

/-- `V[0xF] <- f`. -/
def State.setFlag (s : State) (f : Bool) : State := s.setV flagReg (flagByte f)

/-- `V[x] <- r`, then `V[0xF] <- f`: the flag is written last and remains (R83; log 9). -/
def State.setVFlag (s : State) (x : Reg) (r : Byte) (f : Bool) : State := (s.setV x r).setFlag f

end Sys2Proof.Machine
end

