-- ==== Sys2Proof/Machine/Operands.lean ====
section
/-! DEFINITION. Every operand form: zero-extended addresses and registers (R47), the key index (R100), the range of a
register transfer (R89), the free or supplied random byte (R82), and the cells of a sprite (R95). -/

namespace Sys2Proof.Machine

/-- `zext_16(nnn)` (R47). -/
def addr16 (nnn : BitVec 12) : Word := nnn.setWidth 16

/-- `zext_16(v)` of a register's value. -/
def byte16 (v : Byte) : Word := v.setWidth 16

/-- The key a register's value names: 0 to 15, no masking (R100, R101). -/
def keyIndex (v : Byte) : Option (Fin 16) :=
  if h : v.toNat < 16 then some ⟨v.toNat, h⟩ else none

/-- How many registers `Fx55` and `Fx65` transfer: `x + 1` (R89, R90). -/
def regCount (x : Reg) : Nat := x.val + 1

/-- The address `I` names, as an unbounded integer (R36). -/
def State.addrI (s : State) : Nat := s.I.toNat

/-- The highest key below `n` that is held (R102: "highest index wins"). -/
def State.highestKeyBelow (s : State) : Nat → Option Nat
  | 0 => none
  | n + 1 => if h : n < 16 then (if s.keyHeld ⟨n, h⟩ then some n else s.highestKeyBelow n) else s.highestKeyBelow n

/-- `max { k | keypad[k] }`, or none when no key is held (R102). -/
def State.highestKey (s : State) : Option Nat := s.highestKeyBelow 16

/-- The `rnd` input of this cycle: the host's byte where it named one, else the next free value (R82; log 2). -/
def State.rndByte (s : State) : Byte := s.rndIn.getD (Config.freeRnd s.draws)

/-- A draw of `rnd` is used up: the next free byte is another one (R82). -/
def State.drawn (s : State) : State := { s with draws := s.draws + 1 }

/-! ### Sprite geometry (R95) -/

/-- `idx(dx, dy) = px + dx + 64 * (py + dy)`, on unbounded integers. -/
def cellIndex (px py dx dy : Nat) : Nat := px + dx + 64 * (py + dy)

/-- The cells the set bits of row byte `b` address; bit `7 - dx` is column `dx` (R95; log 11). -/
def rowCells (px py dy : Nat) (b : Byte) : List Nat :=
  ((List.range 8).filter fun dx => b.getLsbD (7 - dx)).map fun dx => cellIndex px py dx dy

/-- The set `S` of `Dxyn`: the cells the set bits of rows `0` to `n - 1` at `memory[a]` address (R94). -/
def spriteCells (m : Memory) (a px py n : Nat) : List Nat :=
  (List.range n).flatMap fun dy => rowCells px py dy (m.read (a + dy))

end Sys2Proof.Machine
end

