-- ==== Sys2Proof/Machine/Alu.lean ====
section
/-! DEFINITION. Register file and ALU: load, add, logic, subtract, shift, random (R70 to R83). -/

namespace Sys2Proof.Machine

/-- `6xnn` (R71). -/
def execLdImm (x : Reg) (nn : Byte) (s : State) : Result := .next (s.setV x nn).advance

/-- `7xnn` (R72): wraps, no flag. -/
def execAddImm (x : Reg) (nn : Byte) (s : State) : Result := .next (s.setV x (s.getV x + nn)).advance

/-- `8xy0` (R73). -/
def execLdReg (x y : Reg) (s : State) : Result := .next (s.setV x (s.getV y)).advance

/-- `8xy1` (R74). -/
def execOr (x y : Reg) (s : State) : Result := .next (s.setV x (s.getV x ||| s.getV y)).advance

/-- `8xy2` (R75). -/
def execAnd (x y : Reg) (s : State) : Result := .next (s.setV x (s.getV x &&& s.getV y)).advance

/-- `8xy3` (R76). -/
def execXor (x y : Reg) (s : State) : Result := .next (s.setV x (s.getV x ^^^ s.getV y)).advance

/-- `8xy4` (R77, R83). -/
def execAddReg (x y : Reg) (s : State) : Result :=
  let a := s.getV x
  let b := s.getV y
  .next (s.setVFlag x (a + b) (carry a b)).advance

/-- `8xy5` (R78, R83). -/
def execSub (x y : Reg) (s : State) : Result :=
  let a := s.getV x
  let b := s.getV y
  .next (s.setVFlag x (a - b) (notBorrow a b)).advance

/-- `8xy6` (R79, R83): shifts `V[x]`; `y` is encoded and not used. -/
def execShr (x _y : Reg) (s : State) : Result :=
  let a := s.getV x
  .next (s.setVFlag x (a >>> 1) (lowBit a)).advance

/-- `8xy7` (R80, R83). -/
def execSubn (x y : Reg) (s : State) : Result :=
  let a := s.getV x
  let b := s.getV y
  .next (s.setVFlag x (b - a) (notBorrow b a)).advance

/-- `8xyE` (R81, R83): shifts `V[x]`; `y` is encoded and not used. -/
def execShl (x _y : Reg) (s : State) : Result :=
  let a := s.getV x
  .next (s.setVFlag x (a <<< 1) (highBit a)).advance

/-- `Cxnn` (R82): `rnd` is a free value, or the byte the host named for this cycle (log 2). -/
def execRnd (x : Reg) (nn : Byte) (s : State) : Result :=
  .next (s.setV x (nn &&& s.rndByte)).drawn.advance

end Sys2Proof.Machine
end

