-- ==== Sys2Proof/Machine/ControlFlow.lean ====
section
/-! DEFINITION. Control flow: return, jump, call, indexed jump, compare and skip (R60 to R68). -/

namespace Sys2Proof.Machine

/-- `00EE` (R61). -/
def execRet (s : State) : Result :=
  match s.pop with
  | none => raise .stackUnderflow
  | some (a, t) => .next (t.setPc (a + 2))

/-- `1nnn` (R62). -/
def execJp (nnn : BitVec 12) (s : State) : Result := .next (s.setPc (addr16 nnn))

/-- `2nnn` (R63). -/
def execCall (nnn : BitVec 12) (s : State) : Result :=
  match s.pushPc with
  | none => raise .stackOverflow
  | some t => .next (t.setPc (addr16 nnn))

/-- `Bnnn` (R64). -/
def execJpV0 (nnn : BitVec 12) (s : State) : Result :=
  .next (s.setPc (addr16 nnn + byte16 (s.getV 0)))

/-- `3xnn` (R65). -/
def execSeImm (x : Reg) (nn : Byte) (s : State) : Result := skipIf (s.getV x == nn) s

/-- `4xnn` (R66). -/
def execSneImm (x : Reg) (nn : Byte) (s : State) : Result := skipIf (s.getV x != nn) s

/-- `5xy0` (R67). -/
def execSeReg (x y : Reg) (s : State) : Result := skipIf (s.getV x == s.getV y) s

/-- `9xy0` (R68). -/
def execSneReg (x y : Reg) (s : State) : Result := skipIf (s.getV x != s.getV y) s

end Sys2Proof.Machine
end

