-- ==== Sys2Proof/Machine/Display.lean ====
section
/-! DEFINITION. Display: clear and sprite draw (R93 to R96). -/

namespace Sys2Proof.Machine

/-- `00E0` (R93). -/
def execCls (s : State) : Result := .next (s.clearCells.setDrawPending true).advance

/-- The set `S` of `Dxyn` at a state: position from `V[x]`, `V[y]`, bytes from `memory[I]` (R94, R95). -/
def State.drawSet (s : State) (x y : Reg) (n : Nat) : List Nat :=
  spriteCells s.mem s.addrI (s.getV x).toNat (s.getV y).toNat n

/-- The draw itself, once both checks have passed: collision from `fb` before, cells toggled, flag written. -/
def State.draw (s : State) (S : List Nat) : State :=
  ((s.xorCells S).setFlag (collision s S)).setDrawPending true

/-- `Dxyn` (R94): both checks precede every effect. -/
def execDrw (x y : Reg) (n : Nat) (s : State) : Result :=
  withMemCheck s.addrI n
    (if (s.drawSet x y n).any fun k => decide (Config.fbCells ≤ k) then raise .outOfBounds
     else .next (s.draw (s.drawSet x y n)).advance)

end Sys2Proof.Machine
end

