-- ==== Sys2Proof/Machine/IndexMemory.lean ====
section
/-! DEFINITION. Index register and memory transfer (R85 to R90). -/

namespace Sys2Proof.Machine

/-- `Annn` (R85). -/
def execLdI (nnn : BitVec 12) (s : State) : Result := .next (s.setI (addr16 nnn)).advance

/-- `Fx1E` (R86): kept to 16 bits, no flag. -/
def execAddI (x : Reg) (s : State) : Result := .next (s.setI (s.I + byte16 (s.getV x))).advance

/-- `Fx29` (R87): the whole 8-bit value, times 5. -/
def execLdF (x : Reg) (s : State) : Result := .next (s.setI (5 * byte16 (s.getV x))).advance

/-- Hundreds, tens and ones of a byte (R88). -/
def bcdBytes (v : Byte) : List Byte :=
  [BitVec.ofNat 8 (v.toNat / 100), BitVec.ofNat 8 (v.toNat / 10 % 10), BitVec.ofNat 8 (v.toNat % 10)]

/-- `Fx33` (R88). -/
def execLdB (x : Reg) (s : State) : Result :=
  withMemCheck s.addrI 3 (.next (s.memWrite s.addrI (bcdBytes (s.getV x))).advance)

/-- `Fx55` (R89): `I` unmodified. -/
def execStRegs (x : Reg) (s : State) : Result :=
  withMemCheck s.addrI (regCount x) (.next (s.memWrite s.addrI (s.firstRegs x)).advance)

/-- `Fx65` (R90): `I` unmodified. -/
def execLdRegs (x : Reg) (s : State) : Result :=
  withMemCheck s.addrI (regCount x) (.next (s.loadRegs x s.addrI).advance)

end Sys2Proof.Machine
end

