-- ==== Sys2Proof/Machine/KeypadTimers.lean ====
section
/-! DEFINITION. Keypad and timer instructions (R100 to R105). -/

namespace Sys2Proof.Machine

/-- `Ex9E` (R100). -/
def execSkp (x : Reg) (s : State) : Result :=
  match keyIndex (s.getV x) with
  | none => raise .outOfBounds
  | some k => skipIf (s.keyHeld k) s

/-- `ExA1` (R101). -/
def execSknp (x : Reg) (s : State) : Result :=
  match keyIndex (s.getV x) with
  | none => raise .outOfBounds
  | some k => skipIf (!s.keyHeld k) s

/-- `Fx0A` (R102): with no key held the cycle succeeds and changes nothing, `pc` included. -/
def execLdVxK (x : Reg) (s : State) : Result :=
  match s.highestKey with
  | none => .next s
  | some k => .next (s.setV x (BitVec.ofNat 8 k)).advance

/-- `Fx07` (R103). -/
def execLdVxDT (x : Reg) (s : State) : Result := .next (s.setV x s.delayTimer).advance

/-- `Fx15` (R104). -/
def execLdDTVx (x : Reg) (s : State) : Result := .next (s.setDelay (s.getV x)).advance

/-- `Fx18` (R105). -/
def execLdSTVx (x : Reg) (s : State) : Result := .next (s.setSound (s.getV x)).advance

end Sys2Proof.Machine
end

