-- ==== Sys2Proof/Machine/HostInterface.lean ====
section
/-! DEFINITION. The seven operations of the host interface (R128 to R134, R140 to R145): `Cycle` is one
fetch-decode-execute step, the rest act on the state between cycles. -/

namespace Sys2Proof.Machine

/-- One cycle: fetch, decode, execute, the first error in that order (R118, R130). -/
def cycle (s : State) : Result :=
  match s.fetchWord with
  | none => raise .outOfBounds
  | some w =>
    match decodeWord w with
    | none => raise (.unknownOpcode (fieldClass w) w)
    | some i => exec i s

/-- The sound signal `sound_timer > 0` (R127). -/
def MachineState.soundOn (m : MachineState) : Bool := decide (0 < m.soundTimer.toNat)

/-- `Reset`: every element of the Machine State, and nothing of the world around it (R26, R140). -/
def State.resetOp (s : State) : State := { s with toMachineState := State.reset.toMachineState }

/-- `Load(bytes)`, or none for an image over 3584 bytes (R143). -/
def State.loadOp (s : State) (bytes : List Byte) : Option State :=
  if bytes.length ≤ Config.progMax then some (s.memWrite Config.progBase bytes) else none

/-- One timer at a tick: zero is a resting state (R125). -/
def tickTimer (v : Byte) : Byte := if v = 0 then 0 else v - 1

/-- The state after `Tick` (R125). -/
def State.tickOp (s : State) : State :=
  (s.setDelay (tickTimer s.delayTimer)).setSound (tickTimer s.soundTimer)

/-- What a tick returns: `SoundStopped` exactly when it takes the sound timer from 1 to 0 (R125, R126). -/
def State.tickResult (s : State) : HostResult := if s.soundTimer = 1 then .soundStopped else .ok

/-- A host operation at a state: the state after it and what it returns, or its error (R128). -/
def operate (op : HostOp) (s : State) : Host.Outcome (State × HostResult) Fault Refusal :=
  match op with
  | .reset => .next (s.resetOp, .ok)
  | .load bytes =>
    match s.loadOp bytes with
    | some t => .next (t, .ok)
    | none => .fault .loadError
  | .cycle rnd =>
    match cycle { s with rndIn := some rnd } with
    | .next t => .next ({ t with rndIn := none }, .ok)
    | .fault f => .fault f
    | .refused r => .refused r
  | .tick => .next (s.tickOp, s.tickResult)
  | .setKey k held => .next (s.setKey k held, .ok)
  | .ackDraw => .next (s.setDrawPending false, .ok)
  | .observe => .next (s, .observed s.toMachineState s.soundOn)

/-- Perform the oldest pending request and keep what it returned (R129; log 3, log 21). -/
def perform (op : HostOp) (s : State) : Result :=
  match operate op s with
  | .next (t, r) => .next { t with outputs := t.outputs ++ [r] }
  | .fault f => .fault f
  | .refused r => .refused r

/-- A whole history of host operations: after an error the state is as before it and the host goes on (R116, R117,
R129). A refusal, which no instruction of this model answers with, ends the history. -/
def history : List HostOp → State → State × List HostResult
  | [], s => (s, [])
  | op :: ops, s =>
    match operate op s with
    | .next (t, r) => ((history ops t).1, r :: (history ops t).2)
    | .fault f => ((history ops s).1, .error f :: (history ops s).2)
    | .refused _ => (s, [])

/-- The result codes of R110 (the spec's own numbering). -/
def resultCode : HostResult → Nat
  | .error .outOfBounds => 1
  | .error .stackOverflow => 2
  | .error .stackUnderflow => 3
  | .error (.unknownOpcode _ _) => 4
  | .error .loadError => 5
  | .ok => 0
  | .soundStopped => 0
  | .observed _ _ => 0

end Sys2Proof.Machine
end

