-- ==== Sys2Proof/Machine/Step.lean ====
section
/-! DEFINITION. The step: the oldest pending host request, or, when the host has requested nothing else, a Cycle. -/

namespace Sys2Proof.Machine

/-- One step of the machine. Operations never overlap; the host's order is the order of `pending` (R129). With nothing
pending the host issues a `Cycle` whose `rnd` is a free value (log 2, log 3). -/
def step (s : State) : Host.Outcome State Fault Refusal :=
  match s.pending with
  | [] => cycle s
  | op :: rest => perform op { s with pending := rest }

/-- `s` with the instruction whose bits are `w` stored where the next step fetches, and no request before it. Where `pc`
is at an address from which nothing can be fetched (R34), the fetch needs another: 0x200 (log 8). -/
def State.withFetchWord (s : State) (nbits w : Nat) : State :=
  let t := if s.fetchable then s else s.setPc 0x200
  { t.memWrite t.pc.toNat (wordBytes (BitVec.ofNat 16 (w % 2 ^ nbits))) with pending := [] }

end Sys2Proof.Machine
end

