-- ==== Sys2Proof/Safety.lean ====
section
/-! DEFINITION. The terms claims use: what two states agree on, what counts as a safe run, and the invariant. -/

namespace Sys2Proof.Machine

/-! ### Frames -/

/-- The parts of a state a frame speaks of: the elements of R10, the free-value counter, and the host's side. -/
inductive Elem where
  | mem | V | I | pc | stack | sp | delayTimer | soundTimer | keypad | fb | drawPending
  /-- `draws`, the index of the next free random byte. -/
  | draws
  /-- `rndIn`, `pending` and `outputs`. -/
  | host
  deriving DecidableEq, Repr

/-- `t` agrees with `s` on one part: memory byte by byte, registers, keys and cells one by one. -/
def Elem.same (s t : State) : Elem → Prop
  | .mem => ∀ a, t.memRead a = s.memRead a
  | .V => ∀ r, t.getV r = s.getV r
  | .I => t.I = s.I
  | .pc => t.pc = s.pc
  | .stack => t.stack = s.stack
  | .sp => t.sp = s.sp
  | .delayTimer => t.delayTimer = s.delayTimer
  | .soundTimer => t.soundTimer = s.soundTimer
  | .keypad => ∀ k, t.keyHeld k = s.keyHeld k
  | .fb => ∀ k, t.cell k = s.cell k
  | .drawPending => t.drawPending = s.drawPending
  | .draws => t.draws = s.draws
  | .host => t.rndIn = s.rndIn ∧ t.pending = s.pending ∧ t.outputs = s.outputs

/-- `t` agrees with `s` on every part that is not listed. -/
def SameExcept (changed : List Elem) (s t : State) : Prop := ∀ e, e ∉ changed → e.same s t

/-- Every register that is not listed is unchanged. -/
def SameRegsExcept (xs : List Reg) (s t : State) : Prop := ∀ r, r ∉ xs → t.getV r = s.getV r

/-- Every byte of memory outside the `len` bytes at `a` is unchanged. -/
def SameMemOutside (a len : Nat) (s t : State) : Prop :=
  ∀ k, k < a ∨ a + len ≤ k → t.memRead k = s.memRead k

/-! ### Shapes of effects -/

/-- Only `V[x]` changes, to `v`, and the instruction ends with `next`. -/
def WritesReg (x : Reg) (v : Byte) (s t : State) : Prop :=
  t.getV x = v ∧ SameRegsExcept [x] s t ∧ t.pc = s.pc + 2 ∧ SameExcept [.V, .pc] s t

/-- Only `V[x]` and the flag change: `V[x]` (where it is not the flag register) to the number `r`, the flag to 1 or 0
as `f` holds or not, and the instruction ends with `next`. -/
def WritesRegAndFlag (x : Reg) (r : Nat) (f : Prop) (s t : State) : Prop :=
  (x ≠ 15 → (t.getV x).toNat = r) ∧ (f → t.getV 15 = 1) ∧ (¬ f → t.getV 15 = 0) ∧
  SameRegsExcept [x, 15] s t ∧ t.pc = s.pc + 2 ∧ SameExcept [.V, .pc] s t

/-- Only `pc` changes, to `target`. -/
def MovesPc (target : Word) (s t : State) : Prop := t.pc = target ∧ SameExcept [.pc] s t

/-- Only `I` changes, to the number `v`, and the instruction ends with `next`. -/
def WritesI (v : Nat) (s t : State) : Prop :=
  t.I.toNat = v ∧ t.pc = s.pc + 2 ∧ SameExcept [.I, .pc] s t

/-! ### Words that are no instruction (R51), by class and low digits -/

/-- The table of R51, on the number the word is: class `w / 4096`, low digit `w % 16`, low byte `w % 256`. -/
abbrev unknownWord (w : Word) : Prop :=
  (w.toNat / 4096 = 0x0 ∧ w ≠ 0x00E0 ∧ w ≠ 0x00EE) ∨
  (w.toNat / 4096 = 0x5 ∧ w.toNat % 16 ≠ 0) ∨
  (w.toNat / 4096 = 0x8 ∧ w.toNat % 16 ∈ [0x8, 0x9, 0xA, 0xB, 0xC, 0xD, 0xF]) ∨
  (w.toNat / 4096 = 0x9 ∧ w.toNat % 16 ≠ 0) ∨
  (w.toNat / 4096 = 0xE ∧ w.toNat % 256 ∉ [0x9E, 0xA1]) ∨
  (w.toNat / 4096 = 0xF ∧ w.toNat % 256 ∉ [0x07, 0x0A, 0x15, 0x18, 0x1E, 0x29, 0x33, 0x55, 0x65])

/-! ### Which registers an instruction writes (R27) -/

/-- The rows `V` of R27 for writing: `i` has register `r` as its destination, or as the flag it sets. -/
def writesV (i : Instr) (r : Reg) : Prop :=
  match i with
  | .ldImm x _ | .addImm x _ | .ldReg x _ | .orReg x _ | .andReg x _ | .xorReg x _ | .rnd x _ | .ldVxDT x | .ldVxK x =>
    r = x
  | .addReg x _ | .subReg x _ | .subnReg x _ | .shr x _ | .shl x _ => r = x ∨ r = 15
  | .drw _ _ _ => r = 15
  | .ldRegs x => r ≤ x
  | .cls | .ret | .jp _ | .call _ | .seImm _ _ | .sneImm _ _ | .seReg _ _ | .sneReg _ _ | .ldI _ | .jpV0 _ | .skp _
  | .sknp _ | .ldDTVx _ | .ldSTVx _ | .addI _ | .ldF _ | .ldB _ | .stRegs _ => False

/-! ### How `pc` moves (R60) -/

/-- The table of R60: the `pc` after a successful `i`, as a function of the state before it. -/
def pcAfter (i : Instr) (s : State) : Word :=
  match i with
  | .cls | .ldImm _ _ | .addImm _ _ | .ldReg _ _ | .orReg _ _ | .andReg _ _ | .xorReg _ _ | .addReg _ _ | .subReg _ _
  | .shr _ _ | .subnReg _ _ | .shl _ _ | .ldI _ | .rnd _ _ | .drw _ _ _ | .ldVxDT _ | .ldDTVx _ | .ldSTVx _ | .addI _
  | .ldF _ | .ldB _ | .stRegs _ | .ldRegs _ => s.pc + 2
  | .seImm x nn => if s.getV x = nn then s.pc + 4 else s.pc + 2
  | .sneImm x nn => if s.getV x = nn then s.pc + 2 else s.pc + 4
  | .seReg x y => if s.getV x = s.getV y then s.pc + 4 else s.pc + 2
  | .sneReg x y => if s.getV x = s.getV y then s.pc + 2 else s.pc + 4
  | .skp x => if ∃ k, k.val = (s.getV x).toNat ∧ s.keyHeld k = true then s.pc + 4 else s.pc + 2
  | .sknp x => if ∃ k, k.val = (s.getV x).toNat ∧ s.keyHeld k = true then s.pc + 2 else s.pc + 4
  | .jp nnn | .call nnn => BitVec.ofNat 16 nnn.toNat
  | .jpV0 nnn => BitVec.ofNat 16 (nnn.toNat + (s.getV 0).toNat)
  | .ret => if h : s.sp.val = 0 then s.pc else s.stack[s.sp.val - 1] + 2
  | .ldVxK _ => if ∃ k, s.keyHeld k = true then s.pc + 2 else s.pc

/-! ### Sprites (R94, R95) -/

/-- Cell `k` is in the set `S` of `Dxyn`: a set bit of a sprite row addresses it. -/
def inSprite (s : State) (x y : Reg) (n k : Nat) : Prop :=
  ∃ dy < n, ∃ dx < 8, (s.memRead (s.I.toNat + dy)).getLsbD (7 - dx) = true ∧
    k = (s.getV x).toNat + dx + 64 * ((s.getV y).toNat + dy)

/-! ### Runs -/

/-- `n` steps from `s` end without an error or a refusal (R117: what a claim about a program should take care of). -/
def SafeFor (n : Nat) (s : State) : Prop := ∃ t, Host.Core.run Sys2Proof.core n s = .next t

/-- What every reachable state meets (R14, R25, R61): memory is in canonical form, `pc` is at most 0x10FE, and every
live stack entry is an address an instruction was fetched from. -/
def Inv (s : State) : Prop :=
  s.mem.wf ∧ s.pc.toNat ≤ 0x10FE ∧ ∀ k : Fin 16, k.val < s.sp.val → s.stack[k.val].toNat ≤ 0xFFE

end Sys2Proof.Machine
end

