-- ==== Sys2Proof/Certificates/Slice0/Obligations.lean ====
section
/-! DEFINITION. The statements for the provers: the rules of spec/ as propositions about `decode`, `exec`, `cycle`,
`operate` and `step`. Each docstring names the rule or section it formalises. -/

open Sys2Proof Sys2Proof.Machine

/-! ### Encoding -/

/-- One word of each family, its bytes written out from its row in R50, decodes to the row's instruction. Two clauses rest
on more than R50: that 0xF175 is no instruction is strict decode, the spec's decision D2 (R48, vector T101; log 10); that one
byte alone is rejected as truncated is the model's own answer, since every instruction is two bytes (R45; log 29). -/
def Obligations.SampleWordsDecode : Prop :=
  decode [0x00, 0xE0] = .accept .cls ∧
  decode [0x2A, 0xBC] = .accept (.call 0xABC) ∧
  decode [0x4A, 0x05] = .accept (.sneImm 0xA 0x05) ∧
  decode [0x81, 0x2E] = .accept (.shl 0x1 0x2) ∧
  decode [0xB3, 0x00] = .accept (.jpV0 0x300) ∧
  decode [0xD1, 0x25] = .accept (.drw 0x1 0x2 5) ∧
  decode [0xE3, 0xA1] = .accept (.sknp 0x3) ∧
  decode [0xF2, 0x55] = .accept (.stRegs 0x2) ∧
  decode [0xF1, 0x75] = .reject (.unknownOpcode 0xF 0xF175) ∧
  decode [0x12] = .reject .truncated

/-- Every row of R50, on numbers: the word `match + 256*x + 16*y + ...` is the row's instruction with exactly those
operands, for every value of every operand (R46, R47). -/
def Obligations.EveryRowDecodesItsOperands : Prop :=
  (decodeWord (BitVec.ofNat 16 0x00E0) = some .cls ∧ decodeWord (BitVec.ofNat 16 0x00EE) = some .ret) ∧
  (∀ nnn : BitVec 12,
    decodeWord (BitVec.ofNat 16 (0x1000 + nnn.toNat)) = some (.jp nnn) ∧
    decodeWord (BitVec.ofNat 16 (0x2000 + nnn.toNat)) = some (.call nnn) ∧
    decodeWord (BitVec.ofNat 16 (0xA000 + nnn.toNat)) = some (.ldI nnn) ∧
    decodeWord (BitVec.ofNat 16 (0xB000 + nnn.toNat)) = some (.jpV0 nnn)) ∧
  (∀ (x : Reg) (nn : Byte),
    decodeWord (BitVec.ofNat 16 (0x3000 + 256 * x.val + nn.toNat)) = some (.seImm x nn) ∧
    decodeWord (BitVec.ofNat 16 (0x4000 + 256 * x.val + nn.toNat)) = some (.sneImm x nn) ∧
    decodeWord (BitVec.ofNat 16 (0x6000 + 256 * x.val + nn.toNat)) = some (.ldImm x nn) ∧
    decodeWord (BitVec.ofNat 16 (0x7000 + 256 * x.val + nn.toNat)) = some (.addImm x nn) ∧
    decodeWord (BitVec.ofNat 16 (0xC000 + 256 * x.val + nn.toNat)) = some (.rnd x nn)) ∧
  (∀ x y : Reg,
    decodeWord (BitVec.ofNat 16 (0x5000 + 256 * x.val + 16 * y.val)) = some (.seReg x y) ∧
    decodeWord (BitVec.ofNat 16 (0x8000 + 256 * x.val + 16 * y.val)) = some (.ldReg x y) ∧
    decodeWord (BitVec.ofNat 16 (0x8001 + 256 * x.val + 16 * y.val)) = some (.orReg x y) ∧
    decodeWord (BitVec.ofNat 16 (0x8002 + 256 * x.val + 16 * y.val)) = some (.andReg x y) ∧
    decodeWord (BitVec.ofNat 16 (0x8003 + 256 * x.val + 16 * y.val)) = some (.xorReg x y) ∧
    decodeWord (BitVec.ofNat 16 (0x8004 + 256 * x.val + 16 * y.val)) = some (.addReg x y) ∧
    decodeWord (BitVec.ofNat 16 (0x8005 + 256 * x.val + 16 * y.val)) = some (.subReg x y) ∧
    decodeWord (BitVec.ofNat 16 (0x8006 + 256 * x.val + 16 * y.val)) = some (.shr x y) ∧
    decodeWord (BitVec.ofNat 16 (0x8007 + 256 * x.val + 16 * y.val)) = some (.subnReg x y) ∧
    decodeWord (BitVec.ofNat 16 (0x800E + 256 * x.val + 16 * y.val)) = some (.shl x y) ∧
    decodeWord (BitVec.ofNat 16 (0x9000 + 256 * x.val + 16 * y.val)) = some (.sneReg x y)) ∧
  (∀ (x y : Reg) (n : Nat), n < 16 →
    decodeWord (BitVec.ofNat 16 (0xD000 + 256 * x.val + 16 * y.val + n)) = some (.drw x y n)) ∧
  (∀ x : Reg,
    decodeWord (BitVec.ofNat 16 (0xE09E + 256 * x.val)) = some (.skp x) ∧
    decodeWord (BitVec.ofNat 16 (0xE0A1 + 256 * x.val)) = some (.sknp x) ∧
    decodeWord (BitVec.ofNat 16 (0xF007 + 256 * x.val)) = some (.ldVxDT x) ∧
    decodeWord (BitVec.ofNat 16 (0xF00A + 256 * x.val)) = some (.ldVxK x) ∧
    decodeWord (BitVec.ofNat 16 (0xF015 + 256 * x.val)) = some (.ldDTVx x) ∧
    decodeWord (BitVec.ofNat 16 (0xF018 + 256 * x.val)) = some (.ldSTVx x) ∧
    decodeWord (BitVec.ofNat 16 (0xF01E + 256 * x.val)) = some (.addI x) ∧
    decodeWord (BitVec.ofNat 16 (0xF029 + 256 * x.val)) = some (.ldF x) ∧
    decodeWord (BitVec.ofNat 16 (0xF033 + 256 * x.val)) = some (.ldB x) ∧
    decodeWord (BitVec.ofNat 16 (0xF055 + 256 * x.val)) = some (.stRegs x) ∧
    decodeWord (BitVec.ofNat 16 (0xF065 + 256 * x.val)) = some (.ldRegs x))

/-- Decode and encode agree: every well-formed instruction, with every operand its encoding admits, is read back from
its own bytes. -/
def Obligations.DecodeOfEncodeIsTheInstruction : Prop :=
  ∀ i : Instr, i.wf = true → decode (wordBytes (encode i)) = .accept i

/-- Encode and decode agree: a word that decodes is the word of a well-formed instruction, bit for bit. It holds of a strict
decoder only (R48), which is the spec's decision D2 (log 10): one that took 0x5121 for `5xy0` would read the word 0x5120 of
that instruction differently. -/
def Obligations.EncodeOfDecodeIsTheWord : Prop :=
  ∀ (w : Word) (i : Instr), decodeWord w = some i → i.wf = true ∧ encode i = w

/-- "The 34 rows are pairwise disjoint, so at most one matches" (R48, which marks the sentence as derived). -/
def Obligations.OpcodeRowsArePairwiseDisjoint : Prop :=
  opcodeTable.length = 34 ∧
  opcodeTable.Pairwise fun r q => ∀ w : Word, ¬ (r.selects w = true ∧ q.selects w = true)

/-- The decoder rejects exactly the words of R51's table (R51 is derived in the spec; strictness is the spec's
decision D2, log 10). -/
def Obligations.DecoderRejectsExactlyTheUnknownWords : Prop :=
  ∀ w : Word, decodeWord w = none ↔ unknownWord w

/-! ### The cycle: fetch, decode, errors -/

/-- R34: the fetch fails with `OutOfBounds` exactly from `pc + 1 >= 4096` on, whatever memory holds, and else reads the
two bytes at `pc`, the first as the high byte. -/
def Obligations.FetchReadsBigEndianOrIsOutOfBounds : Prop :=
  (∀ s : State, 4096 ≤ s.pc.toNat + 1 → s.fetchWord = none ∧ cycle s = .fault .outOfBounds) ∧
  (∀ s : State, s.pc.toNat + 1 < 4096 → ∃ w, s.fetchWord = some w ∧
    w.toNat = 256 * (s.memRead s.pc.toNat).toNat + (s.memRead (s.pc.toNat + 1)).toNat)

/-- A step runs the decoded instruction: with no request pending (log 3), when the two bytes at `pc` decode to `i`,
the step is `exec i`, with nothing around it. -/
def Obligations.StepRunsTheDecodedInstruction : Prop :=
  ∀ (s : State) (i : Instr), s.pending = [] → s.pc.toNat + 1 < 4096 →
    decode [s.memRead s.pc.toNat, s.memRead (s.pc.toNat + 1)] = .accept i → step s = exec i s

/-- A requested `Cycle(rnd)` runs the decoded instruction with that `rnd`: it ends as `exec` does, the request is used
up, and on success the result `ok` is returned (the request list is the model's own, log 3 and log 21). -/
def Obligations.RequestedCycleRunsTheDecodedInstruction : Prop :=
  ∀ (s : State) (b : Byte) (rest : List HostOp) (i : Instr), s.pending = .cycle b :: rest → s.pc.toNat + 1 < 4096 →
    decode [s.memRead s.pc.toNat, s.memRead (s.pc.toNat + 1)] = .accept i →
    (∀ t, exec i { s with pending := rest, rndIn := some b } = .next t →
      step s = .next { t with rndIn := none, outputs := t.outputs ++ [.ok] }) ∧
    (∀ f, exec i { s with pending := rest, rndIn := some b } = .fault f → step s = .fault f)

/-- R114: `UnknownOpcode(class, raw_word)` comes from a fetched word of R51's table, with its class and itself, and from
nothing else; no execute stage raises it. -/
def Obligations.UnknownOpcodeIsRaisedByDecodeAlone : Prop :=
  (∀ (s : State) (cls : BitVec 4) (raw : Word), cycle s = .fault (.unknownOpcode cls raw) ↔
    s.fetchWord = some raw ∧ unknownWord raw ∧ cls.toNat = raw.toNat / 4096) ∧
  (∀ (i : Instr) (s : State) (cls : BitVec 4) (raw : Word), exec i s ≠ .fault (.unknownOpcode cls raw))

/-- R112: `StackOverflow` is raised by `2nnn` when `sp == 16`, and by nothing else. -/
def Obligations.StackOverflowOnlyByCallOnFullStack : Prop :=
  ∀ (i : Instr) (s : State), exec i s = .fault .stackOverflow ↔ (∃ nnn, i = .call nnn) ∧ s.sp = 16

/-- R113: `StackUnderflow` is raised by `00EE` when `sp == 0`, and by nothing else. -/
def Obligations.StackUnderflowOnlyByReturnOnEmptyStack : Prop :=
  ∀ (i : Instr) (s : State), exec i s = .fault .stackUnderflow ↔ i = .ret ∧ s.sp = 0

/-- R111's list of all causes of `OutOfBounds` of an execute stage. Derived: the clause on sprite cells is the spec's
decision D7 (log 12) and, through which bit is which column (R95), D6 (log 11); the clause on key indices is D9 (log 14);
that the ranges are counted without a wrap is D5 (R36; log 15). -/
def Obligations.OutOfBoundsHasExactlyItsCauses : Prop :=
  ∀ (i : Instr) (s : State), exec i s = .fault .outOfBounds ↔
    (∃ x y n, i = .drw x y n ∧
      ((0 < n ∧ 4096 < s.I.toNat + n) ∨ ∃ k, inSprite s x y n k ∧ 2048 ≤ k)) ∨
    ((∃ x, i = .ldB x) ∧ 4096 < s.I.toNat + 3) ∨
    (∃ x, (i = .stRegs x ∨ i = .ldRegs x) ∧ 4096 < s.I.toNat + x.val + 1) ∨
    (∃ x, (i = .skp x ∨ i = .sknp x) ∧ 15 < (s.getV x).toNat)

/-- R115: no cycle raises `LoadError`; `Load` does, exactly for an image over 3584 bytes. -/
def Obligations.LoadErrorOnlyByLoadOfALongImage : Prop :=
  (∀ s : State, cycle s ≠ .fault .loadError) ∧
  (∀ (op : HostOp) (s : State), operate op s = .fault .loadError ↔ ∃ bs, op = .load bs ∧ 3584 < bs.length)

/-- No instruction and no step of this model answers with a refusal. -/
def Obligations.NothingIsRefused : Prop :=
  (∀ (i : Instr) (s : State) (q : Refusal), exec i s ≠ .refused q) ∧ (∀ (s : State) (q : Refusal), step s ≠ .refused q)

/-- R117 (the sentence is derived in the spec): a cycle that failed fails again with the same error, whatever its
`rnd`, at once and after a tick, a key write, a draw acknowledge or an observation; in a history the failed operation
changes nothing and the history goes on. -/
def Obligations.FailedCycleFailsAgainUntilResetOrLoad : Prop :=
  ∀ (s : State) (b : Byte) (f : Fault), operate (.cycle b) s = .fault f →
    (∀ c, operate (.cycle c) s = .fault f) ∧
    (∀ c op t r, (op = .tick ∨ op = .ackDraw ∨ op = .observe ∨ ∃ k h, op = .setKey k h) →
      operate op s = .next (t, r) → operate (.cycle c) t = .fault f) ∧
    (∀ ops, history (.cycle b :: ops) s = ((history ops s).1, .error f :: (history ops s).2))

/-! ### Whole-machine rules -/

/-- The writing half of the access matrix of R27 (derived in the spec): which instructions write each element; every other
leaves it. A register is written by the instructions `writesV` lists; `pc` by all but a waiting `Fx0A`, so a `pc` that a
success leaves as it was is that of a jump, a call or a return to the same address, or of a waiting `Fx0A`. That `00EE` leaves
the popped slot is the spec's decision D14 (log 17); the last line is the model's own fields (logs 2, 3, 21). -/
def Obligations.EachElementHasOnlyItsWriters : Prop :=
  ∀ (i : Instr) (s t : State), exec i s = .next t →
    (∀ r, ¬ writesV i r → t.getV r = s.getV r) ∧
    (t.pc = s.pc → (∃ nnn, i = .jp nnn ∨ i = .call nnn ∨ i = .jpV0 nnn) ∨ i = .ret ∨
      (∃ x, i = .ldVxK x) ∧ ∀ k, s.keyHeld k = false) ∧
    ((∃ x, i = .ldVxK x) → (∀ k, s.keyHeld k = false) → t.pc = s.pc) ∧
    ((∀ x, i ≠ .ldB x) → (∀ x, i ≠ .stRegs x) → ∀ a, t.memRead a = s.memRead a) ∧
    ((∀ nnn, i ≠ .ldI nnn) → (∀ x, i ≠ .addI x) → (∀ x, i ≠ .ldF x) → t.I = s.I) ∧
    ((∀ nnn, i ≠ .call nnn) → t.stack = s.stack ∧ (i ≠ .ret → t.sp = s.sp)) ∧
    ((∀ x, i ≠ .ldDTVx x) → t.delayTimer = s.delayTimer) ∧
    ((∀ x, i ≠ .ldSTVx x) → t.soundTimer = s.soundTimer) ∧
    t.keypad = s.keypad ∧
    (i ≠ .cls → (∀ x y n, i ≠ .drw x y n) → (∀ k, t.cell k = s.cell k) ∧ t.drawPending = s.drawPending) ∧
    ((∀ x nn, i ≠ .rnd x nn) → t.draws = s.draws) ∧
    t.rndIn = s.rndIn ∧ t.pending = s.pending ∧ t.outputs = s.outputs

/-- R12's list (derived in the spec): a successful instruction that changes `V[0xF]` is one of the six that set the
flag, which leave 0 or 1 in it, or names `V[0xF]` as its destination. That 0 or 1 is left rests, for the five of the ALU with
`x = 0xF`, on the spec's decision D3 (flag last; log 9) and, for a `Dxyn` without a collision, on D8 (log 13). -/
def Obligations.FlagRegisterHasOnlyItsWriters : Prop :=
  ∀ (i : Instr) (s t : State), exec i s = .next t →
    ((∃ x y n, i = .addReg x y ∨ i = .subReg x y ∨ i = .subnReg x y ∨ i = .shr x y ∨ i = .shl x y ∨ i = .drw x y n) →
      t.getV 15 = 0 ∨ t.getV 15 = 1) ∧
    (t.getV 15 ≠ s.getV 15 →
      (∃ x y n, i = .addReg x y ∨ i = .subReg x y ∨ i = .subnReg x y ∨ i = .shr x y ∨ i = .shl x y ∨ i = .drw x y n) ∨
      (∃ y nn, i = .ldImm 15 nn ∨ i = .addImm 15 nn ∨ i = .ldReg 15 y ∨ i = .orReg 15 y ∨ i = .andReg 15 y ∨
        i = .xorReg 15 y ∨ i = .rnd 15 nn ∨ i = .ldVxDT 15 ∨ i = .ldVxK 15 ∨ i = .ldRegs 15))

/-- R60: every successful instruction moves `pc` in the way of the table, by 2, by 4, to `nnn`, to `nnn + V[0]`, to the
popped address plus 2, or not at all. -/
def Obligations.PcMovesAsTheTableSays : Prop :=
  ∀ (i : Instr) (s t : State), exec i s = .next t → t.pc = pcAfter i s

/-- R82: "A cycle that executes any other instruction ignores `rnd`": with another `rnd` input and another draw counter
every instruction but `Cxnn` ends the same way, with the same state but for those two (which are the model's own, log 2).
-/
def Obligations.OnlyRandomReadsTheRandomByte : Prop :=
  ∀ (i : Instr) (s : State) (b : Option Byte) (d : Nat), (∀ x nn, i ≠ .rnd x nn) →
    (∀ t, exec i s = .next t → exec i { s with rndIn := b, draws := d } = .next { t with rndIn := b, draws := d }) ∧
    (∀ f, exec i s = .fault f → exec i { s with rndIn := b, draws := d } = .fault f)

/-- No instruction reads `sound_timer` (R19) or `draw_pending` (R22): with other values of both, an instruction fails the
same way, or succeeds with every other element the same. -/
def Obligations.NoInstructionReadsSoundTimerOrDirtyFlag : Prop :=
  ∀ (i : Instr) (s s' : State), SameExcept [.soundTimer, .drawPending] s s' →
    (∀ f, exec i s = .fault f → exec i s' = .fault f) ∧
    (∀ t, exec i s = .next t → ∃ t', exec i s' = .next t' ∧ SameExcept [.soundTimer, .drawPending] t t')

/-! ### Register file and ALU -/

/-- R71 to R76: load immediate, add immediate, move, OR, AND, XOR complete always, write `V[x]` and nothing else but
`pc`, and set no flag (with `x = 0xF` the flag register is an ordinary destination). -/
def Obligations.LoadsLogicAndAddImmediateWriteOneRegister : Prop :=
  ∀ (s : State) (x y : Reg) (nn : Byte),
    (∃ t, exec (.ldImm x nn) s = .next t ∧ WritesReg x nn s t) ∧
    (∃ t, exec (.addImm x nn) s = .next t ∧
      WritesReg x (BitVec.ofNat 8 (((s.getV x).toNat + nn.toNat) % 256)) s t) ∧
    (∃ t, exec (.ldReg x y) s = .next t ∧ WritesReg x (s.getV y) s t) ∧
    (∃ t, exec (.orReg x y) s = .next t ∧ WritesReg x (s.getV x ||| s.getV y) s t) ∧
    (∃ t, exec (.andReg x y) s = .next t ∧ WritesReg x (s.getV x &&& s.getV y) s t) ∧
    (∃ t, exec (.xorReg x y) s = .next t ∧ WritesReg x (s.getV x ^^^ s.getV y) s t)

/-- The flag-setting ALU instructions, for every `x` and `y`: result modulo 256, flag from the operands before the
operation, completion always. That with `x = 0xF` the flag is what remains is the spec's decision D3 (R83; log 9), so
this is derived. -/
def Obligations.FlagAluWritesResultThenFlag : Prop :=
  ∀ (s : State) (x y : Reg), let a := (s.getV x).toNat; let b := (s.getV y).toNat
    (∃ t, exec (.addReg x y) s = .next t ∧ WritesRegAndFlag x ((a + b) % 256) (255 < a + b) s t) ∧
    (∃ t, exec (.subReg x y) s = .next t ∧ WritesRegAndFlag x ((a + 256 - b) % 256) (b ≤ a) s t) ∧
    (∃ t, exec (.subnReg x y) s = .next t ∧ WritesRegAndFlag x ((b + 256 - a) % 256) (a ≤ b) s t) ∧
    (∃ t, exec (.shr x y) s = .next t ∧ WritesRegAndFlag x (a / 2) (a % 2 = 1) s t) ∧
    (∃ t, exec (.shl x y) s = .next t ∧ WritesRegAndFlag x (2 * a % 256) (128 ≤ a) s t)

/-- `Cxnn` completes always with `V[x] = nn AND rnd`, so no bit outside `nn`, and writes nothing else; `rnd` is the byte
of the Cycle in progress, or the next free byte, which a draw uses up (R82; that `rnd` is an input is the spec's decision
D11, the counter is the model's, log 2). It holds whatever the free byte is. -/
def Obligations.RandomWritesTheMaskedByte : Prop :=
  ∀ (s : State) (x : Reg) (nn : Byte), ∃ t, exec (.rnd x nn) s = .next t ∧
    t.getV x = nn &&& s.rndByte ∧ t.getV x &&& ~~~nn = 0 ∧ (∀ b, s.rndIn = some b → s.rndByte = b) ∧
    SameRegsExcept [x] s t ∧ t.pc = s.pc + 2 ∧ t.draws = s.draws + 1 ∧ SameExcept [.V, .pc, .draws] s t

/-! ### Control flow -/

/-- R65 to R68: the compare-and-skip instructions complete always, move `pc` by 4 when the condition holds and by 2 when
not, and change nothing else. -/
def Obligations.CompareAndSkipMovesPcOnly : Prop :=
  ∀ (s : State) (x y : Reg) (nn : Byte),
    (∃ t, exec (.seImm x nn) s = .next t ∧ MovesPc (s.pc + if s.getV x = nn then 4 else 2) s t) ∧
    (∃ t, exec (.sneImm x nn) s = .next t ∧ MovesPc (s.pc + if s.getV x ≠ nn then 4 else 2) s t) ∧
    (∃ t, exec (.seReg x y) s = .next t ∧ MovesPc (s.pc + if s.getV x = s.getV y then 4 else 2) s t) ∧
    (∃ t, exec (.sneReg x y) s = .next t ∧ MovesPc (s.pc + if s.getV x ≠ s.getV y then 4 else 2) s t)

/-- R62, R64: the jumps complete always, for every target, odd ones and those past memory too, and write only `pc`; the
indexed sum is not reduced modulo 4096. -/
def Obligations.JumpsSetPcUnchecked : Prop :=
  ∀ (s : State) (nnn : BitVec 12),
    (∃ t, exec (.jp nnn) s = .next t ∧ t.pc.toNat = nnn.toNat ∧ SameExcept [.pc] s t) ∧
    (∃ t, exec (.jpV0 nnn) s = .next t ∧ t.pc.toNat = nnn.toNat + (s.getV 0).toNat ∧ SameExcept [.pc] s t)

/-- R63: a call with room pushes the address of the call itself and goes to `nnn`; at `sp == 16` it fails; a return right
after it comes back to `pc + 2` with the old `sp`. -/
def Obligations.CallPushesItsOwnAddressAndReturnComesBack : Prop :=
  ∀ (s : State) (nnn : BitVec 12),
    (s.sp.val < 16 → ∃ t, exec (.call nnn) s = .next t ∧
      t.pc.toNat = nnn.toNat ∧ t.sp.val = s.sp.val + 1 ∧
      (∀ k : Fin 16, t.stack[k.val] = if k.val = s.sp.val then s.pc else s.stack[k.val]) ∧
      SameExcept [.pc, .sp, .stack] s t ∧
      ∃ u, exec .ret t = .next u ∧ u.pc = s.pc + 2 ∧ u.sp = s.sp) ∧
    (s.sp = 16 → exec (.call nnn) s = .fault .stackOverflow)

/-- R61: a return with a call outstanding pops `stack[sp-1]` and goes two bytes past it; the slot keeps its value (the
spec's decision D14, log 17, so this is derived); with none outstanding it fails. -/
def Obligations.ReturnPopsAndGoesTwoPast : Prop :=
  ∀ s : State,
    (∀ h : s.sp.val ≠ 0, ∃ t, exec .ret s = .next t ∧
      t.pc.toNat = ((s.stack[s.sp.val - 1]).toNat + 2) % 65536 ∧ t.sp.val = s.sp.val - 1 ∧ SameExcept [.pc, .sp] s t) ∧
    (s.sp = 0 → exec .ret s = .fault .stackUnderflow)

/-- R147 (derived in the spec): a self-jump is a stop. With nothing pending, a `1nnn` stored at `nnn` leaves the whole
state as it is. -/
def Obligations.SelfJumpLeavesTheStateUnchanged : Prop :=
  ∀ (s : State) (nnn : BitVec 12), s.pending = [] → s.pc.toNat = nnn.toNat → nnn.toNat ≤ 0xFFE →
    256 * (s.memRead s.pc.toNat).toNat + (s.memRead (s.pc.toNat + 1)).toNat = 0x1000 + nnn.toNat →
    step s = .next s

/-! ### Index register and memory transfer -/

/-- R85 to R87: setting the index register completes always: `nnn`, `I + V[x]` kept to 16 bits, `5 * V[x]` of the whole
byte; no flag and nothing but `I` and `pc` is written. -/
def Obligations.IndexInstructionsWriteI : Prop :=
  ∀ (s : State) (x : Reg) (nnn : BitVec 12),
    (∃ t, exec (.ldI nnn) s = .next t ∧ WritesI nnn.toNat s t) ∧
    (∃ t, exec (.addI x) s = .next t ∧ WritesI ((s.I.toNat + (s.getV x).toNat) % 65536) s t) ∧
    (∃ t, exec (.ldF x) s = .next t ∧ WritesI (5 * (s.getV x).toNat) s t)

/-- R88: `Fx33` stores the three decimal digits at `I`, `I+1`, `I+2` and nothing else, or, when they do not all lie in
memory, fails. -/
def Obligations.BcdStoresThreeDigits : Prop :=
  ∀ (s : State) (x : Reg), let v := (s.getV x).toNat
    (s.I.toNat + 3 ≤ 4096 → ∃ t, exec (.ldB x) s = .next t ∧
      (t.memRead s.I.toNat).toNat = v / 100 ∧ (t.memRead (s.I.toNat + 1)).toNat = v / 10 % 10 ∧
      (t.memRead (s.I.toNat + 2)).toNat = v % 10 ∧ SameMemOutside s.I.toNat 3 s t ∧
      t.pc = s.pc + 2 ∧ SameExcept [.mem, .pc] s t) ∧
    (4096 < s.I.toNat + 3 → exec (.ldB x) s = .fault .outOfBounds)

/-- R89: `Fx55` stores `V[0]` to `V[x]` at `I` and up, leaves `I` and every other byte alone, or fails. -/
def Obligations.StoreRegistersWritesTheRange : Prop :=
  ∀ (s : State) (x : Reg),
    (s.I.toNat + x.val + 1 ≤ 4096 → ∃ t, exec (.stRegs x) s = .next t ∧
      (∀ k, k ≤ x → t.memRead (s.I.toNat + k.val) = s.getV k) ∧ SameMemOutside s.I.toNat (x.val + 1) s t ∧
      t.pc = s.pc + 2 ∧ SameExcept [.mem, .pc] s t) ∧
    (4096 < s.I.toNat + x.val + 1 → exec (.stRegs x) s = .fault .outOfBounds)

/-- R90: `Fx65` loads `V[0]` to `V[x]` from `I` and up, leaves `I`, memory and the registers above `x` alone, or fails;
after an `Fx55` with the same `x` and `I` it brings the stored registers back. -/
def Obligations.LoadRegistersReadsTheRangeAndRoundTrips : Prop :=
  (∀ (s : State) (x : Reg),
    (s.I.toNat + x.val + 1 ≤ 4096 → ∃ t, exec (.ldRegs x) s = .next t ∧
      (∀ k, k ≤ x → t.getV k = s.memRead (s.I.toNat + k.val)) ∧ (∀ k, x < k → t.getV k = s.getV k) ∧
      t.pc = s.pc + 2 ∧ SameExcept [.V, .pc] s t) ∧
    (4096 < s.I.toNat + x.val + 1 → exec (.ldRegs x) s = .fault .outOfBounds)) ∧
  (∀ (s t t' : State) (x : Reg), exec (.stRegs x) s = .next t → Elem.same t t' .mem → t'.I = s.I →
    ∃ u, exec (.ldRegs x) t' = .next u ∧ (∀ k, k ≤ x → u.getV k = s.getV k) ∧ u.I = s.I)

/-- R43 (derived in the spec): a store over the bytes at `pc + 2` is what the next fetch reads, with nothing between. -/
def Obligations.StoreIsSeenByTheNextFetch : Prop :=
  ∀ (s t : State) (x : Reg), exec (.stRegs x) s = .next t → s.pc.toNat + 3 < 4096 → s.I.toNat = s.pc.toNat + 2 →
    1 ≤ x.val → ∃ w, t.fetchWord = some w ∧ w.toNat = 256 * (s.getV 0).toNat + (s.getV 1).toNat

/-! ### Display -/

/-- R93: `00E0` completes always, clears all 2048 cells, sets `draw_pending` whatever was there, and changes nothing else
but `pc`. -/
def Obligations.ClearScreenClearsEveryCell : Prop :=
  ∀ s : State, ∃ t, exec .cls s = .next t ∧ (∀ k < 2048, t.cell k = false) ∧ t.drawPending = true ∧
    t.pc = s.pc + 2 ∧ SameExcept [.fb, .drawPending, .pc] s t

/-- `Dxyn` completes when its bytes lie in memory (or `n = 0`) and no set bit addresses a cell of 2048 or more: it
toggles exactly the cells its set bits address, reports in `V[0xF]` whether one of them was set, sets `draw_pending`, and
changes nothing else but `pc`. Derived: R94 and R95 rest on the spec's decisions D6, D7 and D8 (logs 11, 12, 13). -/
def Obligations.DrawTogglesTheSpriteAndReportsCollision : Prop :=
  ∀ (s : State) (x y : Reg) (n : Nat), (n = 0 ∨ s.I.toNat + n ≤ 4096) → (∀ k, inSprite s x y n k → k < 2048) →
    ∃ t, exec (.drw x y n) s = .next t ∧
      (∀ k < 2048, (inSprite s x y n k → t.cell k = !s.cell k) ∧ (¬ inSprite s x y n k → t.cell k = s.cell k)) ∧
      ((∃ k, inSprite s x y n k ∧ s.cell k = true) → t.getV 15 = 1) ∧
      ((∀ k, inSprite s x y n k → s.cell k = false) → t.getV 15 = 0) ∧
      SameRegsExcept [15] s t ∧ t.drawPending = true ∧ t.pc = s.pc + 2 ∧
      SameExcept [.fb, .drawPending, .V, .pc] s t

/-- "drawing the same sprite at the same location twice restores the original framebuffer region and reports collision on
the second draw wherever the first draw set a pixel" (R94 (j)), for coordinates that the first flag does not move (`x` and
`y` other than 0xF, as S9 of 95_test_vectors.md requires). That `V[0xF]` is 0 when the first draw set no pixel is the spec's
decision D8 (log 13). -/
def Obligations.DrawingTwiceRestoresTheFramebuffer : Prop :=
  ∀ (s t : State) (x y : Reg) (n : Nat), x ≠ 15 → y ≠ 15 → exec (.drw x y n) s = .next t →
    ∃ u, exec (.drw x y n) t = .next u ∧ u.fb = s.fb ∧
      ((∃ k, s.cell k = false ∧ t.cell k = true) ↔ u.getV 15 = 1) ∧
      (u.getV 15 = 0 ∨ u.getV 15 = 1)

/-! ### Keypad and timers -/

/-- `Ex9E` and `ExA1` with a key index of at most 15 complete, skip when that key is held or released, so exactly one of
them skips, and change nothing but `pc`; above 15 they fail (R100, R101; the failure is the spec's decision D9, log 14, so
this is derived). -/
def Obligations.KeySkipsTestOneKey : Prop :=
  ∀ (s : State) (x : Reg),
    (∀ k : Fin 16, (s.getV x).toNat = k.val →
      (∃ t, exec (.skp x) s = .next t ∧ MovesPc (s.pc + if s.keyHeld k = true then 4 else 2) s t) ∧
      (∃ t, exec (.sknp x) s = .next t ∧ MovesPc (s.pc + if s.keyHeld k = true then 2 else 4) s t)) ∧
    (15 < (s.getV x).toNat → exec (.skp x) s = .fault .outOfBounds ∧ exec (.sknp x) s = .fault .outOfBounds)

/-- R102: with no key held `Fx0A` succeeds and changes nothing at all, `pc` included; else `V[x]` receives the highest
held key and `pc` moves on. -/
def Obligations.KeyWaitTakesTheHighestHeldKey : Prop :=
  ∀ (s : State) (x : Reg),
    ((∀ k, s.keyHeld k = false) → exec (.ldVxK x) s = .next s) ∧
    (∀ k : Fin 16, s.keyHeld k = true → (∀ j, k < j → s.keyHeld j = false) →
      ∃ t, exec (.ldVxK x) s = .next t ∧ WritesReg x (BitVec.ofNat 8 k.val) s t)

/-- R103, R104: reading and setting the delay timer complete always and write nothing else but `pc`. -/
def Obligations.DelayTimerIsReadAndSet : Prop :=
  ∀ (s : State) (x : Reg),
    (∃ t, exec (.ldVxDT x) s = .next t ∧ WritesReg x s.delayTimer s t) ∧
    (∃ t, exec (.ldDTVx x) s = .next t ∧ t.delayTimer = s.getV x ∧ t.pc = s.pc + 2 ∧
      SameExcept [.delayTimer, .pc] s t)

/-- `Fx18` completes always, sets the sound timer and with it the sound signal, and emits nothing (R105; that writing 0
emits no `SoundStopped` is the spec's decision D20, log 18, so this is derived). -/
def Obligations.SoundTimerIsSetWithoutAnEvent : Prop :=
  ∀ (s : State) (x : Reg), ∃ t, exec (.ldSTVx x) s = .next t ∧ t.soundTimer = s.getV x ∧
    (t.soundOn = true ↔ 0 < (s.getV x).toNat) ∧ t.pc = s.pc + 2 ∧ SameExcept [.soundTimer, .pc] s t

/-! ### Host operations -/

/-- The table of R26: `State.reset` holds the reset value of every element. Derived: `draw_pending` is the spec's decision
D13 (log 16); `FONT` stays whatever `Config.font` is (log 1). -/
def Obligations.ResetLeavesTheTableOfR26 : Prop :=
  (∀ r, State.reset.getV r = 0) ∧ State.reset.I = 0 ∧ State.reset.pc = 0x200 ∧
  (∀ k : Fin 16, State.reset.stack[k.val] = 0) ∧ State.reset.sp = 0 ∧
  State.reset.delayTimer = 0 ∧ State.reset.soundTimer = 0 ∧ (∀ k, State.reset.keyHeld k = false) ∧
  (∀ k, State.reset.cell k = false) ∧ State.reset.drawPending = false ∧ Config.font.length = 80 ∧
  (∀ a (h : a < Config.font.length), State.reset.memRead a = Config.font[a]) ∧
  (∀ a, 80 ≤ a → a < 4096 → State.reset.memRead a = 0)

/-- `Reset` never fails (R140), the Machine State after it does not depend on the one before, and twice is as once (R141).
Derived: that the model's own fields `draws`, `rndIn`, `pending` and `outputs`, which are no elements of the Machine State,
stay as they are is the model's choice (log 21). -/
def Obligations.ResetIsIdempotentAndForgetsTheStateBefore : Prop :=
  ∀ s : State, ∃ t, operate .reset s = .next (t, .ok) ∧ t.toMachineState = State.reset.toMachineState ∧
    SameExcept [.mem, .V, .I, .pc, .stack, .sp, .delayTimer, .soundTimer, .keypad, .fb, .drawPending] s t ∧
    operate .reset t = .next (t, .ok)

/-- R143: `Load` of at most 3584 bytes copies them to 512 and up and touches nothing else; a longer image is a
`LoadError`. -/
def Obligations.LoadCopiesTheImage : Prop :=
  ∀ (s : State) (bs : List Byte),
    (bs.length ≤ 3584 → ∃ t, operate (.load bs) s = .next (t, .ok) ∧
      (∀ k (h : k < bs.length), t.memRead (512 + k) = bs[k]) ∧ SameMemOutside 512 bs.length s t ∧
      SameExcept [.mem] s t) ∧
    (3584 < bs.length → operate (.load bs) s = .fault .loadError)

/-- R125: a tick decrements each timer that is nonzero, stays at zero otherwise, returns `SoundStopped` exactly when it
takes the sound timer from 1 to 0, and touches nothing else; it cannot fail. Beside the tick, `Fx15` and `Fx18` take a
timer to `V[x]`. -/
def Obligations.TickDecrementsBothTimers : Prop :=
  ∀ s : State, ∃ t r, operate .tick s = .next (t, r) ∧
    t.delayTimer.toNat = s.delayTimer.toNat - 1 ∧ t.soundTimer.toNat = s.soundTimer.toNat - 1 ∧
    (r = .soundStopped ↔ s.soundTimer.toNat = 1 ∧ t.soundTimer.toNat = 0) ∧ (r = .soundStopped ∨ r = .ok) ∧
    SameExcept [.delayTimer, .soundTimer] s t ∧
    ∀ x, (∃ u, exec (.ldDTVx x) s = .next u ∧ u.delayTimer = s.getV x) ∧
      (∃ u, exec (.ldSTVx x) s = .next u ∧ u.soundTimer = s.getV x)

/-- R131, R132: a key write sets that key alone; a draw acknowledge clears `draw_pending` alone, and no instruction clears
it. -/
def Obligations.KeyWriteAndAckDrawChangeOneFlag : Prop :=
  ∀ s : State,
    (∀ (k : Fin 16) (held : Bool), ∃ t, operate (.setKey k held) s = .next (t, .ok) ∧ t.keyHeld k = held ∧
      (∀ j, j ≠ k → t.keyHeld j = s.keyHeld j) ∧ SameExcept [.keypad] s t) ∧
    (∃ t, operate .ackDraw s = .next (t, .ok) ∧ t.drawPending = false ∧ SameExcept [.drawPending] s t) ∧
    (∀ i t, exec i s = .next t → s.drawPending = true → t.drawPending = true)

/-- A pending request other than a cycle is what the next step does (the request list is the model's own, log 3 and
log 21): the rest stays pending, the result is returned, an error ends the run; `Observe` returns the Machine State and
the sound signal as they are (R127, R133). -/
def Obligations.StepPerformsTheOldestRequest : Prop :=
  ∀ (s : State) (op : HostOp) (rest : List HostOp), s.pending = op :: rest →
    (∀ t r, operate op { s with pending := rest } = .next (t, r) → step s = .next { t with outputs := t.outputs ++ [r] }) ∧
    (∀ f, operate op { s with pending := rest } = .fault f → step s = .fault f) ∧
    (op = .observe → ∃ t, step s = .next t ∧ t.toMachineState = s.toMachineState ∧ t.pending = rest ∧
      t.outputs = s.outputs ++ [.observed s.toMachineState (decide (0 < s.soundTimer.toNat))])

/-! ### Invariants -/

/-- The invariant holds at reset. -/
def Obligations.ReachableBoundsHoldAtReset : Prop := Inv State.reset

/-- From every state that meets the invariant, not only runs from reset, every step (a cycle or any host request) gives a
state that meets it: memory keeps its canonical form, `pc` never passes 0x10FE (R14) and every live return address was
fetched from (R61). -/
def Obligations.EveryStepKeepsTheReachableBounds : Prop :=
  ∀ s t : State, Inv s → step s = .next t → Inv t

/-- "16-bit wrap-around of `pc` is therefore unreachable" (R14, derived in the spec): within the invariant, the `pc` after
every fetched instruction is the number its rule gives with no reduction modulo 65536. The jumps and the call give their
target, the indexed jump the whole sum, the return the popped address plus 2 (the clause that needs the invariant), a waiting
`Fx0A` the same `pc`, and every other instruction `pc` plus 2 or 4. -/
def Obligations.PcNeverWraps : Prop :=
  ∀ (s t : State) (i : Instr), Inv s → s.pc.toNat + 1 < 4096 → exec i s = .next t →
    (∀ nnn, i = .jp nnn ∨ i = .call nnn → t.pc.toNat = nnn.toNat) ∧
    (∀ nnn, i = .jpV0 nnn → t.pc.toNat = nnn.toNat + (s.getV 0).toNat) ∧
    (i = .ret → ∃ k : Fin 16, k.val + 1 = s.sp.val ∧ t.pc.toNat = s.stack[k.val].toNat + 2) ∧
    ((∀ nnn, i ≠ .jp nnn ∧ i ≠ .call nnn ∧ i ≠ .jpV0 nnn) → i ≠ .ret →
      t.pc.toNat = s.pc.toNat + 2 ∨ t.pc.toNat = s.pc.toNat + 4 ∨
      (∃ x, i = .ldVxK x) ∧ (∀ k, s.keyHeld k = false) ∧ t.pc.toNat = s.pc.toNat)

/-- Memory in canonical form is determined by what its 4096 addresses read as: equal contents are equal data (the form is
the model's own, log 7). -/
def Obligations.EqualContentsAreEqualMemories : Prop :=
  ∀ m m' : Memory, m.wf → m'.wf → (∀ a < 4096, m.read a = m'.read a) → m = m'
end

