-- ==== Sys2Proof/Laws/Decode.lean ====
section
/-! SUPPORT. Fields and bytes of a word: placing a field and reading it back, and the two bytes of a word. -/

namespace Sys2Proof

/-- Bit `k` of a placed field. -/
theorem getLsbD_fieldAt {n : Nat} (v : BitVec n) (pos k : Nat) :
    (fieldAt v pos).getLsbD k = (decide (k < 16) && !decide (k < pos) && v.getLsbD (k - pos)) := by
  simp only [fieldAt, BitVec.getLsbD_shiftLeft, BitVec.getLsbD_setWidth]
  by_cases h : k < 16
  · have : k - pos < 16 := by omega
    simp [h, this]
  · simp [h]

/-- A word is its two bytes, high byte first. -/
@[simp] theorem bytesWord_bytes (w : Word) : bytesWord (w.extractLsb' 8 8) (w.extractLsb' 0 8) = w := by
  apply BitVec.eq_of_getLsbD_eq
  intro k hk
  simp only [bytesWord, BitVec.getLsbD_or, getLsbD_fieldAt, BitVec.getLsbD_extractLsb']
  interval_cases k <;> simp

/-- The number of a word is 256 times its high byte plus its low byte. -/
theorem bytesWord_toNat (hi lo : Byte) : (bytesWord hi lo).toNat = 256 * hi.toNat + lo.toNat := by
  have h1 := hi.isLt
  have h2 := lo.isLt
  have hor : hi.toNat <<< 8 ||| lo.toNat = hi.toNat <<< 8 + lo.toNat :=
    (Nat.shiftLeft_add_eq_or_of_lt h2 hi.toNat).symm
  have h3 : hi.toNat <<< 8 < 65536 := by rw [Nat.shiftLeft_eq]; omega
  simp only [bytesWord, fieldAt, BitVec.toNat_or, BitVec.toNat_shiftLeft, BitVec.toNat_setWidth, Nat.shiftLeft_zero]
  rw [Nat.mod_eq_of_lt (by omega : hi.toNat < 2 ^ 16), Nat.mod_eq_of_lt (by omega : lo.toNat < 2 ^ 16),
    Nat.mod_eq_of_lt (by omega), Nat.mod_eq_of_lt (by omega), hor, Nat.shiftLeft_eq]
  omega

/-- Decoding two bytes is decoding the word they are. -/
theorem decode_pair (hi lo : Byte) (rest : List Byte) (i : Instr) :
    decode (hi :: lo :: rest) = .accept i ↔ decodeWord (bytesWord hi lo) = some i := by
  simp only [decode]
  split <;> simp_all

/-- The decoder on a word's own bytes. -/
theorem decode_wordBytes (w : Word) (i : Instr) : decode (wordBytes w) = .accept i ↔ decodeWord w = some i := by
  simp [wordBytes, decode_pair]

@[simp] theorem fieldX_wordXNN (c : BitVec 4) (x : Reg) (nn : Byte) : fieldX (wordXNN c x nn) = x := by
  apply BitVec.ofFin.inj
  show (wordXNN c x nn).extractLsb' 8 4 = regBits x
  apply BitVec.eq_of_getLsbD_eq
  intro k hk
  simp only [wordXNN, BitVec.getLsbD_extractLsb', BitVec.getLsbD_or, getLsbD_fieldAt]
  interval_cases k <;> simp

@[simp] theorem fieldNN_wordXNN (c : BitVec 4) (x : Reg) (nn : Byte) : fieldNN (wordXNN c x nn) = nn := by
  apply BitVec.eq_of_getLsbD_eq
  intro k hk
  simp only [fieldNN, wordXNN, BitVec.getLsbD_extractLsb', BitVec.getLsbD_or, getLsbD_fieldAt]
  interval_cases k <;> simp

@[simp] theorem fieldX_wordXYN (c : BitVec 4) (x y : Reg) (n : BitVec 4) : fieldX (wordXYN c x y n) = x := by
  apply BitVec.ofFin.inj
  show (wordXYN c x y n).extractLsb' 8 4 = regBits x
  apply BitVec.eq_of_getLsbD_eq
  intro k hk
  simp only [wordXYN, BitVec.getLsbD_extractLsb', BitVec.getLsbD_or, getLsbD_fieldAt]
  interval_cases k <;> simp

@[simp] theorem fieldY_wordXYN (c : BitVec 4) (x y : Reg) (n : BitVec 4) : fieldY (wordXYN c x y n) = y := by
  apply BitVec.ofFin.inj
  show (wordXYN c x y n).extractLsb' 4 4 = regBits y
  apply BitVec.eq_of_getLsbD_eq
  intro k hk
  simp only [wordXYN, BitVec.getLsbD_extractLsb', BitVec.getLsbD_or, getLsbD_fieldAt]
  interval_cases k <;> simp

@[simp] theorem fieldN_wordXYN (c : BitVec 4) (x y : Reg) (n : BitVec 4) : fieldN (wordXYN c x y n) = n.toNat := by
  refine congrArg BitVec.toNat (?_ : (wordXYN c x y n).extractLsb' 0 4 = n)
  apply BitVec.eq_of_getLsbD_eq
  intro k hk
  simp only [wordXYN, BitVec.getLsbD_extractLsb', BitVec.getLsbD_or, getLsbD_fieldAt]
  interval_cases k <;> simp

@[simp] theorem fieldNNN_wordNNN (c : BitVec 4) (nnn : BitVec 12) : fieldNNN (wordNNN c nnn) = nnn := by
  apply BitVec.eq_of_getLsbD_eq
  intro k hk
  simp only [fieldNNN, wordNNN, BitVec.getLsbD_extractLsb', BitVec.getLsbD_or, getLsbD_fieldAt]
  interval_cases k <;> simp

end Sys2Proof
end

