-- ==== Sys2Proof/Laws/Memory.lean ====
section
/-! SUPPORT. What memory operations do: a read after a write, and that each keeps the canonical form. -/

namespace Sys2Proof.Machine.Memory

theorem read_cons (c : Host.Cell) (m : Memory) (j : Nat) :
    Memory.read (c :: m) j = if c.1 = j then c.2 else Memory.read m j := rfl

theorem mem_erase {m : Memory} {a : Nat} {c : Host.Cell} : c ∈ m.erase a ↔ c ∈ m ∧ c.1 ≠ a := by
  induction m with
  | nil => simp [erase]
  | cons d m ih =>
    by_cases h : d.1 = a
    · have : erase (d :: m) a = erase m a := by simp [erase, h]
      rw [this, ih]
      constructor
      · exact fun ⟨hm, hn⟩ => ⟨List.mem_cons_of_mem _ hm, hn⟩
      · rintro ⟨hm, hn⟩
        rcases List.mem_cons.1 hm with rfl | hm
        · exact absurd h hn
        · exact ⟨hm, hn⟩
    · have : erase (d :: m) a = d :: erase m a := by simp [erase, h]
      rw [this, List.mem_cons, List.mem_cons, ih]
      constructor
      · rintro (rfl | ⟨hm, hn⟩)
        · exact ⟨.inl rfl, h⟩
        · exact ⟨.inr hm, hn⟩
      · rintro ⟨rfl | hm, hn⟩
        · exact .inl rfl
        · exact .inr ⟨hm, hn⟩

theorem mem_insert {m : Memory} {a : Nat} {b : Byte} {c : Host.Cell} :
    c ∈ m.insert a b ↔ c = (a, b) ∨ c ∈ m := by
  induction m with
  | nil => simp [insert]
  | cons d m ih =>
    by_cases h : a < d.1
    · have : insert (d :: m) a b = (a, b) :: d :: m := by simp [insert, h]
      rw [this, List.mem_cons]
    · have : insert (d :: m) a b = d :: insert m a b := by simp [insert, h]
      rw [this, List.mem_cons, ih, List.mem_cons]
      tauto

/-- An erased address reads as unlisted, every other as before. -/
theorem read_erase (m : Memory) (a j : Nat) :
    (m.erase a).read j = if j = a then unlisted a else m.read j := by
  induction m with
  | nil => by_cases h : j = a <;> simp [erase, read, h]
  | cons d m ih =>
    by_cases h : d.1 = a
    · have : erase (d :: m) a = erase m a := by simp [erase, h]
      rw [this, ih, read_cons]
      by_cases hj : j = a
      · simp [hj]
      · simp [hj, show ¬ d.1 = j by omega]
    · have : erase (d :: m) a = d :: erase m a := by simp [erase, h]
      rw [this, read_cons, ih, read_cons]
      by_cases hj : d.1 = j
      · simp [hj, show ¬ j = a by omega]
      · simp [hj]

/-- An inserted entry is read, where none for its address stood before. -/
theorem read_insert {m : Memory} {a : Nat} (hm : ∀ c ∈ m, c.1 ≠ a) (b : Byte) (j : Nat) :
    (m.insert a b).read j = if j = a then b else m.read j := by
  induction m with
  | nil => simp only [insert, read_cons]; simp [eq_comm]
  | cons d m ih =>
    have ih := ih fun c hc => hm c (List.mem_cons_of_mem _ hc)
    have hd : d.1 ≠ a := hm d List.mem_cons_self
    by_cases h : a < d.1
    · have : insert (d :: m) a b = (a, b) :: d :: m := by simp [insert, h]
      rw [this, read_cons]; simp [eq_comm]
    · have : insert (d :: m) a b = d :: insert m a b := by simp [insert, h]
      rw [this, read_cons, ih, read_cons]
      by_cases hj : d.1 = j
      · simp [hj, show ¬ j = a by omega]
      · simp [hj]

/-- A read after a write to the same address gives the byte written, and a write leaves every other address alone. -/
@[simp] theorem read_write (m : Memory) (a : Nat) (b : Byte) (j : Nat) :
    (m.write a b).read j = if j = a then b else m.read j := by
  unfold write
  split
  next h => rw [read_erase, h]
  next h =>
    rw [read_insert (fun c hc => (mem_erase.1 hc).2), read_erase]
    by_cases hj : j = a <;> simp [hj]

/-- A write of consecutive bytes: address `a + k` reads as byte `k`, every address outside as before. -/
theorem read_writeBytes (m : Memory) (a : Nat) (bs : List Byte) (j : Nat) :
    (m.writeBytes a bs).read j = if a ≤ j ∧ j < a + bs.length then bs.getD (j - a) 0 else m.read j := by
  induction bs generalizing m a with
  | nil =>
    simp [writeBytes]
  | cons b bs ih =>
    rw [writeBytes, ih, read_write, List.length_cons]
    by_cases h1 : j = a
    · simp [h1]
    · by_cases h2 : a ≤ j ∧ j < a + (bs.length + 1)
      · have h3 : a + 1 ≤ j ∧ j < a + 1 + bs.length := by omega
        obtain ⟨k, hk⟩ : ∃ k, j - a = k + 1 := ⟨j - a - 1, by omega⟩
        have hk' : j - (a + 1) = k := by omega
        rw [if_pos h3, if_pos h2, hk, hk', List.getD_cons_succ]
      · have h3 : ¬ (a + 1 ≤ j ∧ j < a + 1 + bs.length) := by omega
        rw [if_neg h3, if_neg h2, if_neg h1]

theorem wf_nil : Memory.wf [] := by simp [wf]

theorem wf_erase {m : Memory} (h : m.wf) (a : Nat) : (m.erase a).wf := by
  refine ⟨?_, fun c hc => h.2 c (mem_erase.1 hc).1⟩
  replace h := h.1
  induction m with
  | nil => exact List.Pairwise.nil
  | cons d m ih =>
    obtain ⟨hd, hm⟩ := List.pairwise_cons.1 h
    by_cases hk : d.1 = a
    · have : erase (d :: m) a = erase m a := by simp [erase, hk]
      rw [this]; exact ih hm
    · have : erase (d :: m) a = d :: erase m a := by simp [erase, hk]
      rw [this]
      exact List.pairwise_cons.2 ⟨fun c hc => hd c (mem_erase.1 hc).1, ih hm⟩

theorem wf_insert {m : Memory} (h : m.wf) {a : Nat} {b : Byte} (hm : ∀ c ∈ m, c.1 ≠ a)
    (ha : a < 4096) (hb : b ≠ unlisted a) : (m.insert a b).wf := by
  refine ⟨?_, fun c hc => ?_⟩
  · replace h := h.1
    induction m with
    | nil => simp [insert]
    | cons d m ih =>
      obtain ⟨hd, hp⟩ := List.pairwise_cons.1 h
      have hda : d.1 ≠ a := hm d List.mem_cons_self
      by_cases hk : a < d.1
      · have : insert (d :: m) a b = (a, b) :: d :: m := by simp [insert, hk]
        rw [this]
        refine List.pairwise_cons.2 ⟨fun c hc => ?_, h⟩
        rcases List.mem_cons.1 hc with rfl | hc
        · exact hk
        · exact Nat.lt_trans hk (hd c hc)
      · have : insert (d :: m) a b = d :: insert m a b := by simp [insert, hk]
        rw [this]
        refine List.pairwise_cons.2 ⟨fun c hc => ?_, ih (fun c hc => hm c (List.mem_cons_of_mem _ hc)) hp⟩
        rcases mem_insert.1 hc with rfl | hc
        · show d.1 < a; omega
        · exact hd c hc
  · rcases mem_insert.1 hc with rfl | hc
    · exact ⟨ha, hb⟩
    · exact h.2 c hc

/-- A write inside memory keeps the canonical form. -/
theorem wf_write {m : Memory} (h : m.wf) {a : Nat} (ha : a < 4096) (b : Byte) : (m.write a b).wf := by
  unfold write
  split
  next => exact wf_erase h a
  next hb => exact wf_insert (wf_erase h a) (fun c hc => (mem_erase.1 hc).2) ha hb

/-- A write of bytes that all lie inside memory keeps the canonical form. -/
theorem wf_writeBytes {m : Memory} (h : m.wf) {a : Nat} {bs : List Byte} (ha : a + bs.length ≤ 4096) :
    (m.writeBytes a bs).wf := by
  induction bs generalizing m a with
  | nil => exact h
  | cons b bs ih =>
    rw [List.length_cons] at ha
    exact ih (wf_write h (by omega) b) (by omega)

end Sys2Proof.Machine.Memory
end

