-- ==== Sys2Proof/Laws/State.lean ====
section
/-! SUPPORT. One lemma per field per named update of the state, so that no proof unfolds a record update. -/

namespace Sys2Proof.Machine.State

variable (s : State)

@[simp] theorem setV_mem (x : Reg) (v : Byte) : (s.setV x v).mem = s.mem := rfl
@[simp] theorem setV_I (x : Reg) (v : Byte) : (s.setV x v).I = s.I := rfl
@[simp] theorem setV_pc (x : Reg) (v : Byte) : (s.setV x v).pc = s.pc := rfl
@[simp] theorem setV_stack (x : Reg) (v : Byte) : (s.setV x v).stack = s.stack := rfl
@[simp] theorem setV_sp (x : Reg) (v : Byte) : (s.setV x v).sp = s.sp := rfl
@[simp] theorem setV_delayTimer (x : Reg) (v : Byte) : (s.setV x v).delayTimer = s.delayTimer := rfl
@[simp] theorem setV_soundTimer (x : Reg) (v : Byte) : (s.setV x v).soundTimer = s.soundTimer := rfl
@[simp] theorem setV_keypad (x : Reg) (v : Byte) : (s.setV x v).keypad = s.keypad := rfl
@[simp] theorem setV_fb (x : Reg) (v : Byte) : (s.setV x v).fb = s.fb := rfl
@[simp] theorem setV_drawPending (x : Reg) (v : Byte) : (s.setV x v).drawPending = s.drawPending := rfl
@[simp] theorem setV_draws (x : Reg) (v : Byte) : (s.setV x v).draws = s.draws := rfl
@[simp] theorem setV_rndIn (x : Reg) (v : Byte) : (s.setV x v).rndIn = s.rndIn := rfl
@[simp] theorem setV_pending (x : Reg) (v : Byte) : (s.setV x v).pending = s.pending := rfl
@[simp] theorem setV_outputs (x : Reg) (v : Byte) : (s.setV x v).outputs = s.outputs := rfl
@[simp] theorem setV_memRead (x : Reg) (v : Byte) (j : Nat) : (s.setV x v).memRead j = s.memRead j := rfl
@[simp] theorem setV_cell (x : Reg) (v : Byte) (j : Nat) : (s.setV x v).cell j = s.cell j := rfl
@[simp] theorem setV_keyHeld (x : Reg) (v : Byte) (j : Fin 16) : (s.setV x v).keyHeld j = s.keyHeld j := rfl
@[simp] theorem setV_addrI (x : Reg) (v : Byte) : (s.setV x v).addrI = s.addrI := rfl

@[simp] theorem setFlag_mem (f : Bool) : (s.setFlag f).mem = s.mem := rfl
@[simp] theorem setFlag_I (f : Bool) : (s.setFlag f).I = s.I := rfl
@[simp] theorem setFlag_pc (f : Bool) : (s.setFlag f).pc = s.pc := rfl
@[simp] theorem setFlag_stack (f : Bool) : (s.setFlag f).stack = s.stack := rfl
@[simp] theorem setFlag_sp (f : Bool) : (s.setFlag f).sp = s.sp := rfl
@[simp] theorem setFlag_delayTimer (f : Bool) : (s.setFlag f).delayTimer = s.delayTimer := rfl
@[simp] theorem setFlag_soundTimer (f : Bool) : (s.setFlag f).soundTimer = s.soundTimer := rfl
@[simp] theorem setFlag_keypad (f : Bool) : (s.setFlag f).keypad = s.keypad := rfl
@[simp] theorem setFlag_fb (f : Bool) : (s.setFlag f).fb = s.fb := rfl
@[simp] theorem setFlag_drawPending (f : Bool) : (s.setFlag f).drawPending = s.drawPending := rfl
@[simp] theorem setFlag_draws (f : Bool) : (s.setFlag f).draws = s.draws := rfl
@[simp] theorem setFlag_rndIn (f : Bool) : (s.setFlag f).rndIn = s.rndIn := rfl
@[simp] theorem setFlag_pending (f : Bool) : (s.setFlag f).pending = s.pending := rfl
@[simp] theorem setFlag_outputs (f : Bool) : (s.setFlag f).outputs = s.outputs := rfl
@[simp] theorem setFlag_memRead (f : Bool) (j : Nat) : (s.setFlag f).memRead j = s.memRead j := rfl
@[simp] theorem setFlag_cell (f : Bool) (j : Nat) : (s.setFlag f).cell j = s.cell j := rfl
@[simp] theorem setFlag_keyHeld (f : Bool) (j : Fin 16) : (s.setFlag f).keyHeld j = s.keyHeld j := rfl
@[simp] theorem setFlag_addrI (f : Bool) : (s.setFlag f).addrI = s.addrI := rfl

@[simp] theorem setVFlag_mem (x : Reg) (v : Byte) (f : Bool) : (s.setVFlag x v f).mem = s.mem := rfl
@[simp] theorem setVFlag_I (x : Reg) (v : Byte) (f : Bool) : (s.setVFlag x v f).I = s.I := rfl
@[simp] theorem setVFlag_pc (x : Reg) (v : Byte) (f : Bool) : (s.setVFlag x v f).pc = s.pc := rfl
@[simp] theorem setVFlag_stack (x : Reg) (v : Byte) (f : Bool) : (s.setVFlag x v f).stack = s.stack := rfl
@[simp] theorem setVFlag_sp (x : Reg) (v : Byte) (f : Bool) : (s.setVFlag x v f).sp = s.sp := rfl
@[simp] theorem setVFlag_delayTimer (x : Reg) (v : Byte) (f : Bool) : (s.setVFlag x v f).delayTimer = s.delayTimer := rfl
@[simp] theorem setVFlag_soundTimer (x : Reg) (v : Byte) (f : Bool) : (s.setVFlag x v f).soundTimer = s.soundTimer := rfl
@[simp] theorem setVFlag_keypad (x : Reg) (v : Byte) (f : Bool) : (s.setVFlag x v f).keypad = s.keypad := rfl
@[simp] theorem setVFlag_fb (x : Reg) (v : Byte) (f : Bool) : (s.setVFlag x v f).fb = s.fb := rfl
@[simp] theorem setVFlag_drawPending (x : Reg) (v : Byte) (f : Bool) : (s.setVFlag x v f).drawPending = s.drawPending := rfl
@[simp] theorem setVFlag_draws (x : Reg) (v : Byte) (f : Bool) : (s.setVFlag x v f).draws = s.draws := rfl
@[simp] theorem setVFlag_rndIn (x : Reg) (v : Byte) (f : Bool) : (s.setVFlag x v f).rndIn = s.rndIn := rfl
@[simp] theorem setVFlag_pending (x : Reg) (v : Byte) (f : Bool) : (s.setVFlag x v f).pending = s.pending := rfl
@[simp] theorem setVFlag_outputs (x : Reg) (v : Byte) (f : Bool) : (s.setVFlag x v f).outputs = s.outputs := rfl
@[simp] theorem setVFlag_memRead (x : Reg) (v : Byte) (f : Bool) (j : Nat) : (s.setVFlag x v f).memRead j = s.memRead j := rfl
@[simp] theorem setVFlag_cell (x : Reg) (v : Byte) (f : Bool) (j : Nat) : (s.setVFlag x v f).cell j = s.cell j := rfl
@[simp] theorem setVFlag_keyHeld (x : Reg) (v : Byte) (f : Bool) (j : Fin 16) : (s.setVFlag x v f).keyHeld j = s.keyHeld j := rfl
@[simp] theorem setVFlag_addrI (x : Reg) (v : Byte) (f : Bool) : (s.setVFlag x v f).addrI = s.addrI := rfl

@[simp] theorem setI_mem (v : Word) : (s.setI v).mem = s.mem := rfl
@[simp] theorem setI_V (v : Word) : (s.setI v).V = s.V := rfl
@[simp] theorem setI_I (v : Word) : (s.setI v).I = v := rfl
@[simp] theorem setI_pc (v : Word) : (s.setI v).pc = s.pc := rfl
@[simp] theorem setI_stack (v : Word) : (s.setI v).stack = s.stack := rfl
@[simp] theorem setI_sp (v : Word) : (s.setI v).sp = s.sp := rfl
@[simp] theorem setI_delayTimer (v : Word) : (s.setI v).delayTimer = s.delayTimer := rfl
@[simp] theorem setI_soundTimer (v : Word) : (s.setI v).soundTimer = s.soundTimer := rfl
@[simp] theorem setI_keypad (v : Word) : (s.setI v).keypad = s.keypad := rfl
@[simp] theorem setI_fb (v : Word) : (s.setI v).fb = s.fb := rfl
@[simp] theorem setI_drawPending (v : Word) : (s.setI v).drawPending = s.drawPending := rfl
@[simp] theorem setI_draws (v : Word) : (s.setI v).draws = s.draws := rfl
@[simp] theorem setI_rndIn (v : Word) : (s.setI v).rndIn = s.rndIn := rfl
@[simp] theorem setI_pending (v : Word) : (s.setI v).pending = s.pending := rfl
@[simp] theorem setI_outputs (v : Word) : (s.setI v).outputs = s.outputs := rfl
@[simp] theorem setI_getV (v : Word) (r : Reg) : (s.setI v).getV r = s.getV r := rfl
@[simp] theorem setI_memRead (v : Word) (j : Nat) : (s.setI v).memRead j = s.memRead j := rfl
@[simp] theorem setI_cell (v : Word) (j : Nat) : (s.setI v).cell j = s.cell j := rfl
@[simp] theorem setI_keyHeld (v : Word) (j : Fin 16) : (s.setI v).keyHeld j = s.keyHeld j := rfl

@[simp] theorem setPc_mem (v : Word) : (s.setPc v).mem = s.mem := rfl
@[simp] theorem setPc_V (v : Word) : (s.setPc v).V = s.V := rfl
@[simp] theorem setPc_I (v : Word) : (s.setPc v).I = s.I := rfl
@[simp] theorem setPc_pc (v : Word) : (s.setPc v).pc = v := rfl
@[simp] theorem setPc_stack (v : Word) : (s.setPc v).stack = s.stack := rfl
@[simp] theorem setPc_sp (v : Word) : (s.setPc v).sp = s.sp := rfl
@[simp] theorem setPc_delayTimer (v : Word) : (s.setPc v).delayTimer = s.delayTimer := rfl
@[simp] theorem setPc_soundTimer (v : Word) : (s.setPc v).soundTimer = s.soundTimer := rfl
@[simp] theorem setPc_keypad (v : Word) : (s.setPc v).keypad = s.keypad := rfl
@[simp] theorem setPc_fb (v : Word) : (s.setPc v).fb = s.fb := rfl
@[simp] theorem setPc_drawPending (v : Word) : (s.setPc v).drawPending = s.drawPending := rfl
@[simp] theorem setPc_draws (v : Word) : (s.setPc v).draws = s.draws := rfl
@[simp] theorem setPc_rndIn (v : Word) : (s.setPc v).rndIn = s.rndIn := rfl
@[simp] theorem setPc_pending (v : Word) : (s.setPc v).pending = s.pending := rfl
@[simp] theorem setPc_outputs (v : Word) : (s.setPc v).outputs = s.outputs := rfl
@[simp] theorem setPc_getV (v : Word) (r : Reg) : (s.setPc v).getV r = s.getV r := rfl
@[simp] theorem setPc_memRead (v : Word) (j : Nat) : (s.setPc v).memRead j = s.memRead j := rfl
@[simp] theorem setPc_cell (v : Word) (j : Nat) : (s.setPc v).cell j = s.cell j := rfl
@[simp] theorem setPc_keyHeld (v : Word) (j : Fin 16) : (s.setPc v).keyHeld j = s.keyHeld j := rfl
@[simp] theorem setPc_addrI (v : Word) : (s.setPc v).addrI = s.addrI := rfl

@[simp] theorem advance_mem : (s.advance).mem = s.mem := rfl
@[simp] theorem advance_V : (s.advance).V = s.V := rfl
@[simp] theorem advance_I : (s.advance).I = s.I := rfl
@[simp] theorem advance_pc : (s.advance).pc = s.pc + 2 := rfl
@[simp] theorem advance_stack : (s.advance).stack = s.stack := rfl
@[simp] theorem advance_sp : (s.advance).sp = s.sp := rfl
@[simp] theorem advance_delayTimer : (s.advance).delayTimer = s.delayTimer := rfl
@[simp] theorem advance_soundTimer : (s.advance).soundTimer = s.soundTimer := rfl
@[simp] theorem advance_keypad : (s.advance).keypad = s.keypad := rfl
@[simp] theorem advance_fb : (s.advance).fb = s.fb := rfl
@[simp] theorem advance_drawPending : (s.advance).drawPending = s.drawPending := rfl
@[simp] theorem advance_draws : (s.advance).draws = s.draws := rfl
@[simp] theorem advance_rndIn : (s.advance).rndIn = s.rndIn := rfl
@[simp] theorem advance_pending : (s.advance).pending = s.pending := rfl
@[simp] theorem advance_outputs : (s.advance).outputs = s.outputs := rfl
@[simp] theorem advance_getV (r : Reg) : (s.advance).getV r = s.getV r := rfl
@[simp] theorem advance_memRead (j : Nat) : (s.advance).memRead j = s.memRead j := rfl
@[simp] theorem advance_cell (j : Nat) : (s.advance).cell j = s.cell j := rfl
@[simp] theorem advance_keyHeld (j : Fin 16) : (s.advance).keyHeld j = s.keyHeld j := rfl
@[simp] theorem advance_addrI : (s.advance).addrI = s.addrI := rfl

@[simp] theorem skip_mem : (s.skip).mem = s.mem := rfl
@[simp] theorem skip_V : (s.skip).V = s.V := rfl
@[simp] theorem skip_I : (s.skip).I = s.I := rfl
@[simp] theorem skip_pc : (s.skip).pc = s.pc + 4 := rfl
@[simp] theorem skip_stack : (s.skip).stack = s.stack := rfl
@[simp] theorem skip_sp : (s.skip).sp = s.sp := rfl
@[simp] theorem skip_delayTimer : (s.skip).delayTimer = s.delayTimer := rfl
@[simp] theorem skip_soundTimer : (s.skip).soundTimer = s.soundTimer := rfl
@[simp] theorem skip_keypad : (s.skip).keypad = s.keypad := rfl
@[simp] theorem skip_fb : (s.skip).fb = s.fb := rfl
@[simp] theorem skip_drawPending : (s.skip).drawPending = s.drawPending := rfl
@[simp] theorem skip_draws : (s.skip).draws = s.draws := rfl
@[simp] theorem skip_rndIn : (s.skip).rndIn = s.rndIn := rfl
@[simp] theorem skip_pending : (s.skip).pending = s.pending := rfl
@[simp] theorem skip_outputs : (s.skip).outputs = s.outputs := rfl
@[simp] theorem skip_getV (r : Reg) : (s.skip).getV r = s.getV r := rfl
@[simp] theorem skip_memRead (j : Nat) : (s.skip).memRead j = s.memRead j := rfl
@[simp] theorem skip_cell (j : Nat) : (s.skip).cell j = s.cell j := rfl
@[simp] theorem skip_keyHeld (j : Fin 16) : (s.skip).keyHeld j = s.keyHeld j := rfl
@[simp] theorem skip_addrI : (s.skip).addrI = s.addrI := rfl

@[simp] theorem setDelay_mem (v : Byte) : (s.setDelay v).mem = s.mem := rfl
@[simp] theorem setDelay_V (v : Byte) : (s.setDelay v).V = s.V := rfl
@[simp] theorem setDelay_I (v : Byte) : (s.setDelay v).I = s.I := rfl
@[simp] theorem setDelay_pc (v : Byte) : (s.setDelay v).pc = s.pc := rfl
@[simp] theorem setDelay_stack (v : Byte) : (s.setDelay v).stack = s.stack := rfl
@[simp] theorem setDelay_sp (v : Byte) : (s.setDelay v).sp = s.sp := rfl
@[simp] theorem setDelay_delayTimer (v : Byte) : (s.setDelay v).delayTimer = v := rfl
@[simp] theorem setDelay_soundTimer (v : Byte) : (s.setDelay v).soundTimer = s.soundTimer := rfl
@[simp] theorem setDelay_keypad (v : Byte) : (s.setDelay v).keypad = s.keypad := rfl
@[simp] theorem setDelay_fb (v : Byte) : (s.setDelay v).fb = s.fb := rfl
@[simp] theorem setDelay_drawPending (v : Byte) : (s.setDelay v).drawPending = s.drawPending := rfl
@[simp] theorem setDelay_draws (v : Byte) : (s.setDelay v).draws = s.draws := rfl
@[simp] theorem setDelay_rndIn (v : Byte) : (s.setDelay v).rndIn = s.rndIn := rfl
@[simp] theorem setDelay_pending (v : Byte) : (s.setDelay v).pending = s.pending := rfl
@[simp] theorem setDelay_outputs (v : Byte) : (s.setDelay v).outputs = s.outputs := rfl
@[simp] theorem setDelay_getV (v : Byte) (r : Reg) : (s.setDelay v).getV r = s.getV r := rfl
@[simp] theorem setDelay_memRead (v : Byte) (j : Nat) : (s.setDelay v).memRead j = s.memRead j := rfl
@[simp] theorem setDelay_cell (v : Byte) (j : Nat) : (s.setDelay v).cell j = s.cell j := rfl
@[simp] theorem setDelay_keyHeld (v : Byte) (j : Fin 16) : (s.setDelay v).keyHeld j = s.keyHeld j := rfl
@[simp] theorem setDelay_addrI (v : Byte) : (s.setDelay v).addrI = s.addrI := rfl

@[simp] theorem setSound_mem (v : Byte) : (s.setSound v).mem = s.mem := rfl
@[simp] theorem setSound_V (v : Byte) : (s.setSound v).V = s.V := rfl
@[simp] theorem setSound_I (v : Byte) : (s.setSound v).I = s.I := rfl
@[simp] theorem setSound_pc (v : Byte) : (s.setSound v).pc = s.pc := rfl
@[simp] theorem setSound_stack (v : Byte) : (s.setSound v).stack = s.stack := rfl
@[simp] theorem setSound_sp (v : Byte) : (s.setSound v).sp = s.sp := rfl
@[simp] theorem setSound_delayTimer (v : Byte) : (s.setSound v).delayTimer = s.delayTimer := rfl
@[simp] theorem setSound_soundTimer (v : Byte) : (s.setSound v).soundTimer = v := rfl
@[simp] theorem setSound_keypad (v : Byte) : (s.setSound v).keypad = s.keypad := rfl
@[simp] theorem setSound_fb (v : Byte) : (s.setSound v).fb = s.fb := rfl
@[simp] theorem setSound_drawPending (v : Byte) : (s.setSound v).drawPending = s.drawPending := rfl
@[simp] theorem setSound_draws (v : Byte) : (s.setSound v).draws = s.draws := rfl
@[simp] theorem setSound_rndIn (v : Byte) : (s.setSound v).rndIn = s.rndIn := rfl
@[simp] theorem setSound_pending (v : Byte) : (s.setSound v).pending = s.pending := rfl
@[simp] theorem setSound_outputs (v : Byte) : (s.setSound v).outputs = s.outputs := rfl
@[simp] theorem setSound_getV (v : Byte) (r : Reg) : (s.setSound v).getV r = s.getV r := rfl
@[simp] theorem setSound_memRead (v : Byte) (j : Nat) : (s.setSound v).memRead j = s.memRead j := rfl
@[simp] theorem setSound_cell (v : Byte) (j : Nat) : (s.setSound v).cell j = s.cell j := rfl
@[simp] theorem setSound_keyHeld (v : Byte) (j : Fin 16) : (s.setSound v).keyHeld j = s.keyHeld j := rfl
@[simp] theorem setSound_addrI (v : Byte) : (s.setSound v).addrI = s.addrI := rfl

@[simp] theorem setKey_mem (k : Fin 16) (b : Bool) : (s.setKey k b).mem = s.mem := rfl
@[simp] theorem setKey_V (k : Fin 16) (b : Bool) : (s.setKey k b).V = s.V := rfl
@[simp] theorem setKey_I (k : Fin 16) (b : Bool) : (s.setKey k b).I = s.I := rfl
@[simp] theorem setKey_pc (k : Fin 16) (b : Bool) : (s.setKey k b).pc = s.pc := rfl
@[simp] theorem setKey_stack (k : Fin 16) (b : Bool) : (s.setKey k b).stack = s.stack := rfl
@[simp] theorem setKey_sp (k : Fin 16) (b : Bool) : (s.setKey k b).sp = s.sp := rfl
@[simp] theorem setKey_delayTimer (k : Fin 16) (b : Bool) : (s.setKey k b).delayTimer = s.delayTimer := rfl
@[simp] theorem setKey_soundTimer (k : Fin 16) (b : Bool) : (s.setKey k b).soundTimer = s.soundTimer := rfl
@[simp] theorem setKey_fb (k : Fin 16) (b : Bool) : (s.setKey k b).fb = s.fb := rfl
@[simp] theorem setKey_drawPending (k : Fin 16) (b : Bool) : (s.setKey k b).drawPending = s.drawPending := rfl
@[simp] theorem setKey_draws (k : Fin 16) (b : Bool) : (s.setKey k b).draws = s.draws := rfl
@[simp] theorem setKey_rndIn (k : Fin 16) (b : Bool) : (s.setKey k b).rndIn = s.rndIn := rfl
@[simp] theorem setKey_pending (k : Fin 16) (b : Bool) : (s.setKey k b).pending = s.pending := rfl
@[simp] theorem setKey_outputs (k : Fin 16) (b : Bool) : (s.setKey k b).outputs = s.outputs := rfl
@[simp] theorem setKey_getV (k : Fin 16) (b : Bool) (r : Reg) : (s.setKey k b).getV r = s.getV r := rfl
@[simp] theorem setKey_memRead (k : Fin 16) (b : Bool) (j : Nat) : (s.setKey k b).memRead j = s.memRead j := rfl
@[simp] theorem setKey_cell (k : Fin 16) (b : Bool) (j : Nat) : (s.setKey k b).cell j = s.cell j := rfl
@[simp] theorem setKey_addrI (k : Fin 16) (b : Bool) : (s.setKey k b).addrI = s.addrI := rfl

@[simp] theorem setDrawPending_mem (b : Bool) : (s.setDrawPending b).mem = s.mem := rfl
@[simp] theorem setDrawPending_V (b : Bool) : (s.setDrawPending b).V = s.V := rfl
@[simp] theorem setDrawPending_I (b : Bool) : (s.setDrawPending b).I = s.I := rfl
@[simp] theorem setDrawPending_pc (b : Bool) : (s.setDrawPending b).pc = s.pc := rfl
@[simp] theorem setDrawPending_stack (b : Bool) : (s.setDrawPending b).stack = s.stack := rfl
@[simp] theorem setDrawPending_sp (b : Bool) : (s.setDrawPending b).sp = s.sp := rfl
@[simp] theorem setDrawPending_delayTimer (b : Bool) : (s.setDrawPending b).delayTimer = s.delayTimer := rfl
@[simp] theorem setDrawPending_soundTimer (b : Bool) : (s.setDrawPending b).soundTimer = s.soundTimer := rfl
@[simp] theorem setDrawPending_keypad (b : Bool) : (s.setDrawPending b).keypad = s.keypad := rfl
@[simp] theorem setDrawPending_fb (b : Bool) : (s.setDrawPending b).fb = s.fb := rfl
@[simp] theorem setDrawPending_drawPending (b : Bool) : (s.setDrawPending b).drawPending = b := rfl
@[simp] theorem setDrawPending_draws (b : Bool) : (s.setDrawPending b).draws = s.draws := rfl
@[simp] theorem setDrawPending_rndIn (b : Bool) : (s.setDrawPending b).rndIn = s.rndIn := rfl
@[simp] theorem setDrawPending_pending (b : Bool) : (s.setDrawPending b).pending = s.pending := rfl
@[simp] theorem setDrawPending_outputs (b : Bool) : (s.setDrawPending b).outputs = s.outputs := rfl
@[simp] theorem setDrawPending_getV (b : Bool) (r : Reg) : (s.setDrawPending b).getV r = s.getV r := rfl
@[simp] theorem setDrawPending_memRead (b : Bool) (j : Nat) : (s.setDrawPending b).memRead j = s.memRead j := rfl
@[simp] theorem setDrawPending_cell (b : Bool) (j : Nat) : (s.setDrawPending b).cell j = s.cell j := rfl
@[simp] theorem setDrawPending_keyHeld (b : Bool) (j : Fin 16) : (s.setDrawPending b).keyHeld j = s.keyHeld j := rfl
@[simp] theorem setDrawPending_addrI (b : Bool) : (s.setDrawPending b).addrI = s.addrI := rfl

@[simp] theorem memWrite_mem (a : Nat) (bs : List Byte) : (s.memWrite a bs).mem = s.mem.writeBytes a bs := rfl
@[simp] theorem memWrite_V (a : Nat) (bs : List Byte) : (s.memWrite a bs).V = s.V := rfl
@[simp] theorem memWrite_I (a : Nat) (bs : List Byte) : (s.memWrite a bs).I = s.I := rfl
@[simp] theorem memWrite_pc (a : Nat) (bs : List Byte) : (s.memWrite a bs).pc = s.pc := rfl
@[simp] theorem memWrite_stack (a : Nat) (bs : List Byte) : (s.memWrite a bs).stack = s.stack := rfl
@[simp] theorem memWrite_sp (a : Nat) (bs : List Byte) : (s.memWrite a bs).sp = s.sp := rfl
@[simp] theorem memWrite_delayTimer (a : Nat) (bs : List Byte) : (s.memWrite a bs).delayTimer = s.delayTimer := rfl
@[simp] theorem memWrite_soundTimer (a : Nat) (bs : List Byte) : (s.memWrite a bs).soundTimer = s.soundTimer := rfl
@[simp] theorem memWrite_keypad (a : Nat) (bs : List Byte) : (s.memWrite a bs).keypad = s.keypad := rfl
@[simp] theorem memWrite_fb (a : Nat) (bs : List Byte) : (s.memWrite a bs).fb = s.fb := rfl
@[simp] theorem memWrite_drawPending (a : Nat) (bs : List Byte) : (s.memWrite a bs).drawPending = s.drawPending := rfl
@[simp] theorem memWrite_draws (a : Nat) (bs : List Byte) : (s.memWrite a bs).draws = s.draws := rfl
@[simp] theorem memWrite_rndIn (a : Nat) (bs : List Byte) : (s.memWrite a bs).rndIn = s.rndIn := rfl
@[simp] theorem memWrite_pending (a : Nat) (bs : List Byte) : (s.memWrite a bs).pending = s.pending := rfl
@[simp] theorem memWrite_outputs (a : Nat) (bs : List Byte) : (s.memWrite a bs).outputs = s.outputs := rfl
@[simp] theorem memWrite_getV (a : Nat) (bs : List Byte) (r : Reg) : (s.memWrite a bs).getV r = s.getV r := rfl
@[simp] theorem memWrite_cell (a : Nat) (bs : List Byte) (j : Nat) : (s.memWrite a bs).cell j = s.cell j := rfl
@[simp] theorem memWrite_keyHeld (a : Nat) (bs : List Byte) (j : Fin 16) : (s.memWrite a bs).keyHeld j = s.keyHeld j := rfl
@[simp] theorem memWrite_addrI (a : Nat) (bs : List Byte) : (s.memWrite a bs).addrI = s.addrI := rfl

@[simp] theorem loadRegs_mem (x : Reg) (a : Nat) : (s.loadRegs x a).mem = s.mem := by simp only [loadRegs]
@[simp] theorem loadRegs_I (x : Reg) (a : Nat) : (s.loadRegs x a).I = s.I := by simp only [loadRegs]
@[simp] theorem loadRegs_pc (x : Reg) (a : Nat) : (s.loadRegs x a).pc = s.pc := by simp only [loadRegs]
@[simp] theorem loadRegs_stack (x : Reg) (a : Nat) : (s.loadRegs x a).stack = s.stack := by simp only [loadRegs]
@[simp] theorem loadRegs_sp (x : Reg) (a : Nat) : (s.loadRegs x a).sp = s.sp := by simp only [loadRegs]
@[simp] theorem loadRegs_delayTimer (x : Reg) (a : Nat) : (s.loadRegs x a).delayTimer = s.delayTimer := by simp only [loadRegs]
@[simp] theorem loadRegs_soundTimer (x : Reg) (a : Nat) : (s.loadRegs x a).soundTimer = s.soundTimer := by simp only [loadRegs]
@[simp] theorem loadRegs_keypad (x : Reg) (a : Nat) : (s.loadRegs x a).keypad = s.keypad := by simp only [loadRegs]
@[simp] theorem loadRegs_fb (x : Reg) (a : Nat) : (s.loadRegs x a).fb = s.fb := by simp only [loadRegs]
@[simp] theorem loadRegs_drawPending (x : Reg) (a : Nat) : (s.loadRegs x a).drawPending = s.drawPending := by simp only [loadRegs]
@[simp] theorem loadRegs_draws (x : Reg) (a : Nat) : (s.loadRegs x a).draws = s.draws := by simp only [loadRegs]
@[simp] theorem loadRegs_rndIn (x : Reg) (a : Nat) : (s.loadRegs x a).rndIn = s.rndIn := by simp only [loadRegs]
@[simp] theorem loadRegs_pending (x : Reg) (a : Nat) : (s.loadRegs x a).pending = s.pending := by simp only [loadRegs]
@[simp] theorem loadRegs_outputs (x : Reg) (a : Nat) : (s.loadRegs x a).outputs = s.outputs := by simp only [loadRegs]
@[simp] theorem loadRegs_memRead (x : Reg) (a : Nat) (j : Nat) : (s.loadRegs x a).memRead j = s.memRead j := by simp only [memRead, loadRegs]
@[simp] theorem loadRegs_cell (x : Reg) (a : Nat) (j : Nat) : (s.loadRegs x a).cell j = s.cell j := by simp only [cell, loadRegs]
@[simp] theorem loadRegs_keyHeld (x : Reg) (a : Nat) (j : Fin 16) : (s.loadRegs x a).keyHeld j = s.keyHeld j := by simp only [keyHeld, loadRegs]
@[simp] theorem loadRegs_addrI (x : Reg) (a : Nat) : (s.loadRegs x a).addrI = s.addrI := by simp only [addrI, loadRegs]

@[simp] theorem xorCells_mem (S : List Nat) : (s.xorCells S).mem = s.mem := by simp only [xorCells]
@[simp] theorem xorCells_V (S : List Nat) : (s.xorCells S).V = s.V := by simp only [xorCells]
@[simp] theorem xorCells_I (S : List Nat) : (s.xorCells S).I = s.I := by simp only [xorCells]
@[simp] theorem xorCells_pc (S : List Nat) : (s.xorCells S).pc = s.pc := by simp only [xorCells]
@[simp] theorem xorCells_stack (S : List Nat) : (s.xorCells S).stack = s.stack := by simp only [xorCells]
@[simp] theorem xorCells_sp (S : List Nat) : (s.xorCells S).sp = s.sp := by simp only [xorCells]
@[simp] theorem xorCells_delayTimer (S : List Nat) : (s.xorCells S).delayTimer = s.delayTimer := by simp only [xorCells]
@[simp] theorem xorCells_soundTimer (S : List Nat) : (s.xorCells S).soundTimer = s.soundTimer := by simp only [xorCells]
@[simp] theorem xorCells_keypad (S : List Nat) : (s.xorCells S).keypad = s.keypad := by simp only [xorCells]
@[simp] theorem xorCells_drawPending (S : List Nat) : (s.xorCells S).drawPending = s.drawPending := by simp only [xorCells]
@[simp] theorem xorCells_draws (S : List Nat) : (s.xorCells S).draws = s.draws := by simp only [xorCells]
@[simp] theorem xorCells_rndIn (S : List Nat) : (s.xorCells S).rndIn = s.rndIn := by simp only [xorCells]
@[simp] theorem xorCells_pending (S : List Nat) : (s.xorCells S).pending = s.pending := by simp only [xorCells]
@[simp] theorem xorCells_outputs (S : List Nat) : (s.xorCells S).outputs = s.outputs := by simp only [xorCells]
@[simp] theorem xorCells_getV (S : List Nat) (r : Reg) : (s.xorCells S).getV r = s.getV r := by simp only [getV, xorCells]
@[simp] theorem xorCells_memRead (S : List Nat) (j : Nat) : (s.xorCells S).memRead j = s.memRead j := by simp only [memRead, xorCells]
@[simp] theorem xorCells_keyHeld (S : List Nat) (j : Fin 16) : (s.xorCells S).keyHeld j = s.keyHeld j := by simp only [keyHeld, xorCells]
@[simp] theorem xorCells_addrI (S : List Nat) : (s.xorCells S).addrI = s.addrI := by simp only [addrI, xorCells]

@[simp] theorem clearCells_mem : (s.clearCells).mem = s.mem := rfl
@[simp] theorem clearCells_V : (s.clearCells).V = s.V := rfl
@[simp] theorem clearCells_I : (s.clearCells).I = s.I := rfl
@[simp] theorem clearCells_pc : (s.clearCells).pc = s.pc := rfl
@[simp] theorem clearCells_stack : (s.clearCells).stack = s.stack := rfl
@[simp] theorem clearCells_sp : (s.clearCells).sp = s.sp := rfl
@[simp] theorem clearCells_delayTimer : (s.clearCells).delayTimer = s.delayTimer := rfl
@[simp] theorem clearCells_soundTimer : (s.clearCells).soundTimer = s.soundTimer := rfl
@[simp] theorem clearCells_keypad : (s.clearCells).keypad = s.keypad := rfl
@[simp] theorem clearCells_drawPending : (s.clearCells).drawPending = s.drawPending := rfl
@[simp] theorem clearCells_draws : (s.clearCells).draws = s.draws := rfl
@[simp] theorem clearCells_rndIn : (s.clearCells).rndIn = s.rndIn := rfl
@[simp] theorem clearCells_pending : (s.clearCells).pending = s.pending := rfl
@[simp] theorem clearCells_outputs : (s.clearCells).outputs = s.outputs := rfl
@[simp] theorem clearCells_getV (r : Reg) : (s.clearCells).getV r = s.getV r := rfl
@[simp] theorem clearCells_memRead (j : Nat) : (s.clearCells).memRead j = s.memRead j := rfl
@[simp] theorem clearCells_keyHeld (j : Fin 16) : (s.clearCells).keyHeld j = s.keyHeld j := rfl
@[simp] theorem clearCells_addrI : (s.clearCells).addrI = s.addrI := rfl

@[simp] theorem draw_mem (S : List Nat) : (s.draw S).mem = s.mem := by simp [draw]
@[simp] theorem draw_I (S : List Nat) : (s.draw S).I = s.I := by simp [draw]
@[simp] theorem draw_pc (S : List Nat) : (s.draw S).pc = s.pc := by simp [draw]
@[simp] theorem draw_stack (S : List Nat) : (s.draw S).stack = s.stack := by simp [draw]
@[simp] theorem draw_sp (S : List Nat) : (s.draw S).sp = s.sp := by simp [draw]
@[simp] theorem draw_delayTimer (S : List Nat) : (s.draw S).delayTimer = s.delayTimer := by simp [draw]
@[simp] theorem draw_soundTimer (S : List Nat) : (s.draw S).soundTimer = s.soundTimer := by simp [draw]
@[simp] theorem draw_keypad (S : List Nat) : (s.draw S).keypad = s.keypad := by simp [draw]
@[simp] theorem draw_drawPending (S : List Nat) : (s.draw S).drawPending = true := by simp [draw]
@[simp] theorem draw_draws (S : List Nat) : (s.draw S).draws = s.draws := by simp [draw]
@[simp] theorem draw_rndIn (S : List Nat) : (s.draw S).rndIn = s.rndIn := by simp [draw]
@[simp] theorem draw_pending (S : List Nat) : (s.draw S).pending = s.pending := by simp [draw]
@[simp] theorem draw_outputs (S : List Nat) : (s.draw S).outputs = s.outputs := by simp [draw]
@[simp] theorem draw_memRead (S : List Nat) (j : Nat) : (s.draw S).memRead j = s.memRead j := by simp [draw]
@[simp] theorem draw_keyHeld (S : List Nat) (j : Fin 16) : (s.draw S).keyHeld j = s.keyHeld j := by simp [draw]
@[simp] theorem draw_addrI (S : List Nat) : (s.draw S).addrI = s.addrI := by simp [draw]

@[simp] theorem drawn_mem : (s.drawn).mem = s.mem := rfl
@[simp] theorem drawn_V : (s.drawn).V = s.V := rfl
@[simp] theorem drawn_I : (s.drawn).I = s.I := rfl
@[simp] theorem drawn_pc : (s.drawn).pc = s.pc := rfl
@[simp] theorem drawn_stack : (s.drawn).stack = s.stack := rfl
@[simp] theorem drawn_sp : (s.drawn).sp = s.sp := rfl
@[simp] theorem drawn_delayTimer : (s.drawn).delayTimer = s.delayTimer := rfl
@[simp] theorem drawn_soundTimer : (s.drawn).soundTimer = s.soundTimer := rfl
@[simp] theorem drawn_keypad : (s.drawn).keypad = s.keypad := rfl
@[simp] theorem drawn_fb : (s.drawn).fb = s.fb := rfl
@[simp] theorem drawn_drawPending : (s.drawn).drawPending = s.drawPending := rfl
@[simp] theorem drawn_draws : (s.drawn).draws = s.draws + 1 := rfl
@[simp] theorem drawn_rndIn : (s.drawn).rndIn = s.rndIn := rfl
@[simp] theorem drawn_pending : (s.drawn).pending = s.pending := rfl
@[simp] theorem drawn_outputs : (s.drawn).outputs = s.outputs := rfl
@[simp] theorem drawn_getV (r : Reg) : (s.drawn).getV r = s.getV r := rfl
@[simp] theorem drawn_memRead (j : Nat) : (s.drawn).memRead j = s.memRead j := rfl
@[simp] theorem drawn_cell (j : Nat) : (s.drawn).cell j = s.cell j := rfl
@[simp] theorem drawn_keyHeld (j : Fin 16) : (s.drawn).keyHeld j = s.keyHeld j := rfl
@[simp] theorem drawn_addrI : (s.drawn).addrI = s.addrI := rfl

end Sys2Proof.Machine.State
end

