-- ==== Sys2Proof/Laws/Ops.lean ====
section
/-! SUPPORT. One lemma per shared operation that says all it can do; proofs cite these instead of unfolding. -/

namespace Sys2Proof.Machine

variable (s : State)

/-! ### Registers -/

@[simp] theorem State.getV_setV (x : Reg) (v : Byte) (r : Reg) :
    (s.setV x v).getV r = if r = x then v else s.getV r := by
  simp only [State.getV, State.setV, Vector.getElem_set, Fin.ext_iff, eq_comm]

@[simp] theorem State.getV_setFlag (f : Bool) (r : Reg) :
    (s.setFlag f).getV r = if r = flagReg then flagByte f else s.getV r := State.getV_setV s _ _ _

/-- The flag is written last: with `x = 0xF` it is what remains. -/
@[simp] theorem State.getV_setVFlag (x : Reg) (v : Byte) (f : Bool) (r : Reg) :
    (s.setVFlag x v f).getV r = if r = flagReg then flagByte f else if r = x then v else s.getV r := by
  simp [State.setVFlag]

@[simp] theorem State.getV_loadRegs (x : Reg) (a : Nat) (r : Reg) :
    (s.loadRegs x a).getV r = if r ≤ x then s.memRead (a + r.val) else s.getV r := by
  simp [State.getV, State.loadRegs]

@[simp] theorem State.firstRegs_length (x : Reg) : (s.firstRegs x).length = regCount x := by
  have := x.isLt
  simp only [State.firstRegs, regCount, List.length_take, Vector.length_toList]
  omega

theorem State.firstRegs_getD (x r : Reg) (h : r ≤ x) : (s.firstRegs x).getD r.val 0 = s.getV r := by
  have h1 : r.val < x.val + 1 := Nat.lt_succ_of_le h
  simp [State.firstRegs, State.getV, List.getD_eq_getElem?_getD, h1]

@[simp] theorem State.keyHeld_setKey (k : Fin 16) (b : Bool) (j : Fin 16) :
    (s.setKey k b).keyHeld j = if j = k then b else s.keyHeld j := by
  simp only [State.keyHeld, State.setKey, Vector.getElem_set, Fin.ext_iff, eq_comm]

/-! ### Memory -/

@[simp] theorem State.memRead_memWrite (a : Nat) (bs : List Byte) (j : Nat) :
    (s.memWrite a bs).memRead j = if a ≤ j ∧ j < a + bs.length then bs.getD (j - a) 0 else s.memRead j :=
  Memory.read_writeBytes _ _ _ _

theorem memCheck_iff {a n : Nat} : memCheck a n = true ↔ n = 0 ∨ a + n ≤ 4096 := by
  simp [memCheck, Config.memSize]

theorem withMemCheck_next {a n : Nat} {k : Result} {t : State} :
    withMemCheck a n k = .next t ↔ memCheck a n = true ∧ k = .next t := by
  unfold withMemCheck raise
  split <;> simp_all

theorem withMemCheck_fault {a n : Nat} {k : Result} {f : Fault} :
    withMemCheck a n k = .fault f ↔
      (memCheck a n = false ∧ f = .outOfBounds) ∨ (memCheck a n = true ∧ k = .fault f) := by
  unfold withMemCheck raise
  cases memCheck a n <;> simp [eq_comm (a := f)]

theorem withMemCheck_refused {a n : Nat} {k : Result} {q : Refusal} :
    withMemCheck a n k = .refused q ↔ memCheck a n = true ∧ k = .refused q := by
  unfold withMemCheck raise
  split <;> simp_all

/-! ### Movement of `pc` -/

theorem skipIf_eq (c : Bool) : skipIf c s = .next (s.setPc (if c then s.pc + 4 else s.pc + 2)) := by
  cases c <;> rfl

theorem skipIf_next {c : Bool} {s t : State} :
    skipIf c s = .next t ↔ t = s.setPc (if c then s.pc + 4 else s.pc + 2) := by
  rw [skipIf_eq]
  simp [eq_comm]

/-! ### Stack -/

theorem State.pushPc_none : s.pushPc = none ↔ s.sp = 16 := by
  have := s.sp.isLt
  unfold State.pushPc
  split <;> simp [Fin.ext_iff] <;> omega

/-- All a push does: slot `sp` receives `pc`, `sp` moves up, everything else stays. -/
theorem State.pushPc_some {t : State} : s.pushPc = some t ↔
    ∃ h : s.sp.val < 16, t = { s with stack := s.stack.set s.sp.val s.pc, sp := ⟨s.sp.val + 1, by omega⟩ } := by
  unfold State.pushPc
  split
  next h => simp only [Option.some.injEq, h, exists_true_left]; exact eq_comm
  next h => simp [h]

theorem State.pop_none : s.pop = none ↔ s.sp = 0 := by
  unfold State.pop
  split
  next h => exact ⟨fun _ => Fin.ext h, fun _ => rfl⟩
  next h =>
    constructor
    · intro e; cases e
    · intro e; rw [e] at h; exact absurd rfl h

/-- All a pop does: it reads slot `sp - 1`, `sp` moves down, everything else stays. -/
theorem State.pop_some {a : Word} {t : State} : s.pop = some (a, t) ↔
    ∃ _ : s.sp.val ≠ 0, a = s.stack[s.sp.val - 1] ∧ t = { s with sp := ⟨s.sp.val - 1, by omega⟩ } := by
  unfold State.pop
  split
  next h => simp [h]
  next h => simp only [Option.some.injEq, Prod.mk.injEq, ne_eq, h, not_false_eq_true, exists_true_left]; simp only [eq_comm]

/-! ### Framebuffer -/

theorem getLsbD_rowMask (r : Nat) (S : List Nat) (c : Nat) (hc : c < 64) :
    (rowMask r S).getLsbD c = decide (64 * r + c ∈ S) := by
  induction S with
  | nil => simp [rowMask]
  | cons k S ih =>
    simp only [rowMask]
    split
    next h =>
      have h1 : k % 64 < 64 := Nat.mod_lt _ (by omega)
      have h2 : (k % 64 = c) ↔ (64 * r + c = k) := by omega
      simp [ih, h1, h2]
    next h =>
      have : ¬ (64 * r + c = k) := by omega
      simp [ih, this]

/-- A set of cells is toggled, every other cell is as before. -/
theorem State.cell_xorCells (S : List Nat) (k : Nat) (hk : k < 2048) :
    (s.xorCells S).cell k = ((s.cell k) ^^ decide (k ∈ S)) := by
  have h1 : k / 64 < 32 := by omega
  have h2 : 64 * (k / 64) + k % 64 = k := by omega
  have h3 := getLsbD_rowMask (k / 64) S (k % 64) (by omega)
  rw [h2] at h3
  simp [State.cell, State.xorCells, h1, h3]

@[simp] theorem State.cell_clearCells (k : Nat) : s.clearCells.cell k = false := by
  simp [State.cell, State.clearCells]

theorem State.cell_out (k : Nat) (hk : 2048 ≤ k) : s.cell k = false := by
  have h1 : ¬ k / 64 < 32 := by omega
  simp [State.cell, h1]

/-- Framebuffers with the same 2048 cells are the same data. -/
theorem State.fb_ext {s t : State} (h : ∀ k < 2048, t.cell k = s.cell k) : t.fb = s.fb := by
  apply Vector.ext
  intro r hr
  apply BitVec.eq_of_getLsbD_eq
  intro c hc
  have h1 := h (64 * r + c) (by omega)
  have h2 : (64 * r + c) / 64 = r := by omega
  have h3 : (64 * r + c) % 64 = c := by omega
  simpa [State.cell, h2, h3, hr] using h1

/-! ### Operands -/

theorem keyIndex_none {v : Byte} : keyIndex v = none ↔ 15 < v.toNat := by
  unfold keyIndex
  split <;> (simp; omega)

theorem keyIndex_some {v : Byte} {k : Fin 16} : keyIndex v = some k ↔ v.toNat = k.val := by
  have := k.isLt
  unfold keyIndex
  split <;> (simp [Fin.ext_iff]; try omega)

theorem State.highestKeyBelow_none (n : Nat) (hn : n ≤ 16) :
    s.highestKeyBelow n = none ↔ ∀ k : Fin 16, k.val < n → s.keyHeld k = false := by
  induction n with
  | zero => simp [State.highestKeyBelow]
  | succ n ih =>
    have ih := ih (by omega)
    rw [State.highestKeyBelow, dif_pos (by omega : n < 16)]
    split
    next h => simp; exact ⟨⟨n, by omega⟩, by simp, h⟩
    next h =>
      rw [ih]
      constructor
      · intro H k hk
        by_cases hkn : k.val = n
        · have : k = ⟨n, by omega⟩ := Fin.ext hkn
          simpa [this] using h
        · exact H k (by omega)
      · exact fun H k hk => H k (by omega)

theorem State.highestKeyBelow_some (n m : Nat) (hn : n ≤ 16) :
    s.highestKeyBelow n = some m →
      ∃ h : m < 16, m < n ∧ s.keyHeld ⟨m, h⟩ = true ∧ ∀ k : Fin 16, m < k.val → k.val < n → s.keyHeld k = false := by
  induction n with
  | zero => simp [State.highestKeyBelow]
  | succ n ih =>
    rw [State.highestKeyBelow, dif_pos (by omega : n < 16)]
    split
    next h =>
      intro e
      obtain rfl : n = m := Option.some.inj e
      exact ⟨by omega, by omega, h, fun k h1 h2 => by omega⟩
    next h =>
      intro e
      obtain ⟨hm, h1, h2, h3⟩ := ih (by omega) e
      refine ⟨hm, by omega, h2, fun k hk1 hk2 => ?_⟩
      by_cases hkn : k.val = n
      · have : k = ⟨n, by omega⟩ := Fin.ext hkn
        simpa [this] using h
      · exact h3 k hk1 (by omega)

/-- No key is held, or the answer is the highest key that is. -/
theorem State.highestKey_cases :
    (s.highestKey = none ∧ ∀ k, s.keyHeld k = false) ∨
    ∃ k : Fin 16, s.highestKey = some k.val ∧ s.keyHeld k = true ∧ ∀ j, k < j → s.keyHeld j = false := by
  rcases h : s.highestKey with _ | m
  · exact .inl ⟨rfl, fun k => (s.highestKeyBelow_none 16 (by omega)).1 h k k.isLt⟩
  · obtain ⟨hm, _, h2, h3⟩ := s.highestKeyBelow_some 16 m (by omega) h
    exact .inr ⟨⟨m, hm⟩, rfl, h2, fun j hj => h3 j hj j.isLt⟩

theorem mem_rowCells {px py dy k : Nat} {b : Byte} :
    k ∈ rowCells px py dy b ↔ ∃ dx < 8, b.getLsbD (7 - dx) = true ∧ k = cellIndex px py dx dy := by
  simp only [rowCells, List.mem_map, List.mem_filter, List.mem_range]
  constructor
  · rintro ⟨dx, ⟨h1, h2⟩, rfl⟩; exact ⟨dx, h1, h2, rfl⟩
  · rintro ⟨dx, h1, h2, rfl⟩; exact ⟨dx, ⟨h1, h2⟩, rfl⟩

/-- The set `S` of R94, as the spec writes it. -/
theorem mem_spriteCells {m : Memory} {a px py n k : Nat} :
    k ∈ spriteCells m a px py n ↔
      ∃ dy < n, ∃ dx < 8, (m.read (a + dy)).getLsbD (7 - dx) = true ∧ k = cellIndex px py dx dy := by
  simp only [spriteCells, List.mem_flatMap, List.mem_range, mem_rowCells]

/-! ### Fetch -/

theorem State.fetchWord_none : s.fetchWord = none ↔ 4096 ≤ s.pc.toNat + 1 := by
  simp [State.fetchWord, State.fetchable, Config.memSize]

theorem State.fetchWord_some {w : Word} : s.fetchWord = some w ↔
    s.pc.toNat + 1 < 4096 ∧ w = bytesWord (s.memRead s.pc.toNat) (s.memRead (s.pc.toNat + 1)) := by
  unfold State.fetchWord State.fetchable Config.memSize
  split <;> simp_all [eq_comm]

end Sys2Proof.Machine
end

