-- ==== Sys2Proof/Laws/Display.lean ====
section
/-! SUPPORT. What a sprite draw can do: the set of cells in the spec's words, the two outcomes of `Dxyn`, and the parts of
the state a draw writes. -/

namespace Sys2Proof.Machine

variable (s : State)

theorem mem_drawSet (x y : Reg) (n k : Nat) : k ∈ s.drawSet x y n ↔ inSprite s x y n k := by
  simp only [State.drawSet, mem_spriteCells, inSprite, cellIndex, State.memRead, State.addrI]

/-- `Dxyn` passes both checks and draws, or fails one of them. -/
theorem execDrw_cases (x y : Reg) (n : Nat) :
    (memCheck s.addrI n = true ∧ (∀ k ∈ s.drawSet x y n, k < 2048) ∧
      execDrw x y n s = .next (s.draw (s.drawSet x y n)).advance) ∨
    ((memCheck s.addrI n = false ∨ ∃ k ∈ s.drawSet x y n, 2048 ≤ k) ∧ execDrw x y n s = .fault .outOfBounds) := by
  cases hc : memCheck s.addrI n
  · exact .inr ⟨.inl rfl, by simp [execDrw, withMemCheck, hc, raise]⟩
  · cases hb : (s.drawSet x y n).any fun k => decide (Config.fbCells ≤ k)
    · refine .inl ⟨rfl, fun k hk => ?_, by simp [execDrw, withMemCheck, hc, hb]⟩
      have := List.any_eq_false.1 hb k hk
      simp only [decide_eq_true_eq, Config.fbCells] at this
      omega
    · obtain ⟨k, hk, hk2⟩ := List.any_eq_true.1 hb
      exact .inr ⟨.inr ⟨k, hk, of_decide_eq_true hk2⟩, by simp [execDrw, withMemCheck, hc, hb, raise]⟩

theorem State.cell_draw (S : List Nat) (k : Nat) (hk : k < 2048) :
    (s.draw S).cell k = ((s.cell k) ^^ decide (k ∈ S)) := by
  rw [← State.cell_xorCells s S k hk]
  simp [State.draw]

@[simp] theorem State.getV_draw (S : List Nat) (r : Reg) :
    (s.draw S).getV r = if r = flagReg then flagByte (collision s S) else s.getV r := by
  simp [State.draw]

theorem collision_iff (S : List Nat) : collision s S = true ↔ ∃ k ∈ S, s.cell k = true := by
  simp [collision]

end Sys2Proof.Machine
end

