-- ==== Sys2Proof/Laws/PerInstr.lean ====
section
/-! SUPPORT. Facts about each instruction as syntax: its word lies in its row of the opcode map (R48, R50). -/

namespace Sys2Proof

/-- The mnemonic of an instruction's row in spec/opcode_table.json. -/
def Instr.mnemonic : Instr → String
  | .cls => "CLS"
  | .ret => "RET"
  | .jp _ => "JP_nnn"
  | .call _ => "CALL_nnn"
  | .seImm _ _ => "SE_Vx__nn"
  | .sneImm _ _ => "SNE_Vx__nn"
  | .seReg _ _ => "SE_Vx__Vy"
  | .ldImm _ _ => "LD_Vx__nn"
  | .addImm _ _ => "ADD_Vx__nn"
  | .ldReg _ _ => "LD_Vx__Vy"
  | .orReg _ _ => "OR_Vx__Vy"
  | .andReg _ _ => "AND_Vx__Vy"
  | .xorReg _ _ => "XOR_Vx__Vy"
  | .addReg _ _ => "ADD_Vx__Vy"
  | .subReg _ _ => "SUB_Vx__Vy"
  | .shr _ _ => "SHR_Vx"
  | .subnReg _ _ => "SUBN_Vx__Vy"
  | .shl _ _ => "SHL_Vx"
  | .sneReg _ _ => "SNE_Vx__Vy"
  | .ldI _ => "LD_I__nnn"
  | .jpV0 _ => "JP_V0__nnn"
  | .rnd _ _ => "RND_Vx__nn"
  | .drw _ _ _ => "DRW_Vx__Vy__n"
  | .skp _ => "SKP_Vx"
  | .sknp _ => "SKNP_Vx"
  | .ldVxDT _ => "LD_Vx__DT"
  | .ldVxK _ => "LD_Vx__K"
  | .ldDTVx _ => "LD_DT__Vx"
  | .ldSTVx _ => "LD_ST__Vx"
  | .addI _ => "ADD_I__Vx"
  | .ldF _ => "LD_F__Vx"
  | .ldB _ => "LD_B__Vx"
  | .stRegs _ => "LD__I___Vx"
  | .ldRegs _ => "LD_Vx___I"

namespace Laws.EncodesToRow

/-- The word of the instruction is selected by a row of the opcode map that carries its mnemonic. -/
def Statement (i : Instr) : Prop :=
  ∃ r ∈ opcodeTable, r.mnemonic = i.mnemonic ∧ r.selects (encode i) = true

/-- Formats `XNN` and `XSS`: the mask keeps the class, and the part `m` of the low byte. -/
theorem select_xnn (c : BitVec 4) (x : Reg) (nn m : Byte) :
    wordXNN c x nn &&& (0xF000#16 ||| fieldAt m 0) = fieldAt c 12 ||| fieldAt (nn &&& m) 0 := by
  apply BitVec.eq_of_getLsbD_eq
  intro k hk
  simp only [wordXNN, BitVec.getLsbD_and, BitVec.getLsbD_or, getLsbD_fieldAt]
  interval_cases k <;> simp

/-- Formats `XYS` and `XYN`: the mask keeps the class, and the part `m` of the low nibble. -/
theorem select_xyn (c : BitVec 4) (x y : Reg) (n m : BitVec 4) :
    wordXYN c x y n &&& (0xF000#16 ||| fieldAt m 0) = fieldAt c 12 ||| fieldAt (n &&& m) 0 := by
  apply BitVec.eq_of_getLsbD_eq
  intro k hk
  simp only [wordXYN, BitVec.getLsbD_and, BitVec.getLsbD_or, getLsbD_fieldAt]
  interval_cases k <;> simp

/-- Format `NNN`: the class alone selects. -/
theorem select_nnn (c : BitVec 4) (nnn : BitVec 12) :
    wordNNN c nnn &&& 0xF000#16 = fieldAt c 12 := by
  apply BitVec.eq_of_getLsbD_eq
  intro k hk
  simp only [wordNNN, BitVec.getLsbD_and, BitVec.getLsbD_or, getLsbD_fieldAt]
  interval_cases k <;> simp

/-- A row of the table, by its position, with its mnemonic and selection. -/
theorem of_row {i : Instr} (k : Nat) (hk : k < opcodeTable.length)
    (hm : opcodeTable[k].mnemonic = i.mnemonic) (hs : encode i &&& opcodeTable[k].mask = opcodeTable[k].pattern) :
    Statement i :=
  ⟨opcodeTable[k], List.getElem_mem hk, hm, by simp [OpcodeRow.selects, hs]⟩

theorem cls : Statement .cls := of_row 0 (by decide) rfl rfl

theorem ret : Statement .ret := of_row 1 (by decide) rfl rfl

theorem jp (nnn : BitVec 12) : Statement (.jp nnn) := of_row 2 (by decide) rfl (select_nnn _ _)

theorem call (nnn : BitVec 12) : Statement (.call nnn) := of_row 3 (by decide) rfl (select_nnn _ _)

theorem seImm (x : Reg) (nn : Byte) : Statement (.seImm x nn) := of_row 4 (by decide) rfl ((select_xnn _ _ _ 0).trans (by simp [fieldAt]; rfl))

theorem sneImm (x : Reg) (nn : Byte) : Statement (.sneImm x nn) := of_row 5 (by decide) rfl ((select_xnn _ _ _ 0).trans (by simp [fieldAt]; rfl))

theorem seReg (x : Reg) (y : Reg) : Statement (.seReg x y) := of_row 6 (by decide) rfl (select_xyn _ _ _ _ 0xF)

theorem ldImm (x : Reg) (nn : Byte) : Statement (.ldImm x nn) := of_row 7 (by decide) rfl ((select_xnn _ _ _ 0).trans (by simp [fieldAt]; rfl))

theorem addImm (x : Reg) (nn : Byte) : Statement (.addImm x nn) := of_row 8 (by decide) rfl ((select_xnn _ _ _ 0).trans (by simp [fieldAt]; rfl))

theorem ldReg (x : Reg) (y : Reg) : Statement (.ldReg x y) := of_row 9 (by decide) rfl (select_xyn _ _ _ _ 0xF)

theorem orReg (x : Reg) (y : Reg) : Statement (.orReg x y) := of_row 10 (by decide) rfl (select_xyn _ _ _ _ 0xF)

theorem andReg (x : Reg) (y : Reg) : Statement (.andReg x y) := of_row 11 (by decide) rfl (select_xyn _ _ _ _ 0xF)

theorem xorReg (x : Reg) (y : Reg) : Statement (.xorReg x y) := of_row 12 (by decide) rfl (select_xyn _ _ _ _ 0xF)

theorem addReg (x : Reg) (y : Reg) : Statement (.addReg x y) := of_row 13 (by decide) rfl (select_xyn _ _ _ _ 0xF)

theorem subReg (x : Reg) (y : Reg) : Statement (.subReg x y) := of_row 14 (by decide) rfl (select_xyn _ _ _ _ 0xF)

theorem shr (x : Reg) (y : Reg) : Statement (.shr x y) := of_row 15 (by decide) rfl (select_xyn _ _ _ _ 0xF)

theorem subnReg (x : Reg) (y : Reg) : Statement (.subnReg x y) := of_row 16 (by decide) rfl (select_xyn _ _ _ _ 0xF)

theorem shl (x : Reg) (y : Reg) : Statement (.shl x y) := of_row 17 (by decide) rfl (select_xyn _ _ _ _ 0xF)

theorem sneReg (x : Reg) (y : Reg) : Statement (.sneReg x y) := of_row 18 (by decide) rfl (select_xyn _ _ _ _ 0xF)

theorem ldI (nnn : BitVec 12) : Statement (.ldI nnn) := of_row 19 (by decide) rfl (select_nnn _ _)

theorem jpV0 (nnn : BitVec 12) : Statement (.jpV0 nnn) := of_row 20 (by decide) rfl (select_nnn _ _)

theorem rnd (x : Reg) (nn : Byte) : Statement (.rnd x nn) := of_row 21 (by decide) rfl ((select_xnn _ _ _ 0).trans (by simp [fieldAt]; rfl))

theorem drw (x : Reg) (y : Reg) (n : Nat) : Statement (.drw x y n) := of_row 22 (by decide) rfl ((select_xyn _ _ _ _ 0).trans (by simp [fieldAt]; rfl))

theorem skp (x : Reg) : Statement (.skp x) := of_row 23 (by decide) rfl (select_xnn _ _ _ 0xFF)

theorem sknp (x : Reg) : Statement (.sknp x) := of_row 24 (by decide) rfl (select_xnn _ _ _ 0xFF)

theorem ldVxDT (x : Reg) : Statement (.ldVxDT x) := of_row 25 (by decide) rfl (select_xnn _ _ _ 0xFF)

theorem ldVxK (x : Reg) : Statement (.ldVxK x) := of_row 26 (by decide) rfl (select_xnn _ _ _ 0xFF)

theorem ldDTVx (x : Reg) : Statement (.ldDTVx x) := of_row 27 (by decide) rfl (select_xnn _ _ _ 0xFF)

theorem ldSTVx (x : Reg) : Statement (.ldSTVx x) := of_row 28 (by decide) rfl (select_xnn _ _ _ 0xFF)

theorem addI (x : Reg) : Statement (.addI x) := of_row 29 (by decide) rfl (select_xnn _ _ _ 0xFF)

theorem ldF (x : Reg) : Statement (.ldF x) := of_row 30 (by decide) rfl (select_xnn _ _ _ 0xFF)

theorem ldB (x : Reg) : Statement (.ldB x) := of_row 31 (by decide) rfl (select_xnn _ _ _ 0xFF)

theorem stRegs (x : Reg) : Statement (.stRegs x) := of_row 32 (by decide) rfl (select_xnn _ _ _ 0xFF)

theorem ldRegs (x : Reg) : Statement (.ldRegs x) := of_row 33 (by decide) rfl (select_xnn _ _ _ 0xFF)

end Laws.EncodesToRow

end Sys2Proof
end

