-- ==== Sys2Proof/Tests/Slice0.lean ====
section
/-! SUPPORT. The package's own tests: the WellFormed smoke test, decoding by words written out from R50, single steps
whose expected results are the vectors S1 to S16, T1 to T101 and K1 to K13 of 95_test_vectors.md, and a witness for the
hypotheses of every statement that has some. -/

namespace Sys2Proof.Tests

open Sys2Proof.Machine

/-! ### Well-formedness: the one check, with terms it refuses -/

theorem test_wf_refuses_height_16 : (Instr.drw 0 0 16).wf = false := by decide
theorem test_wf_refuses_height_255 : (Instr.drw 15 15 255).wf = false := by decide
theorem test_wf_accepts_height_15 : (Instr.drw 0 0 15).wf = true := by decide

/-! ### Decoding: each constructor by a word of its row -/

theorem test_decode_control :
    decode [0x00, 0xEE] = .accept .ret ∧ decode [0x1A, 0xBC] = .accept (.jp 0xABC) ∧
    decode [0x2A, 0xBC] = .accept (.call 0xABC) ∧ decode [0xB3, 0x00] = .accept (.jpV0 0x300) ∧
    decode [0x3F, 0x01] = .accept (.seImm 0xF 0x01) ∧ decode [0x4A, 0x05] = .accept (.sneImm 0xA 0x05) ∧
    decode [0x51, 0x20] = .accept (.seReg 1 2) ∧ decode [0x9A, 0xB0] = .accept (.sneReg 0xA 0xB) := by decide

theorem test_decode_alu :
    decode [0x6F, 0xAB] = .accept (.ldImm 0xF 0xAB) ∧ decode [0x71, 0xFF] = .accept (.addImm 1 0xFF) ∧
    decode [0x81, 0x20] = .accept (.ldReg 1 2) ∧ decode [0x81, 0x21] = .accept (.orReg 1 2) ∧
    decode [0x81, 0x22] = .accept (.andReg 1 2) ∧ decode [0x81, 0x23] = .accept (.xorReg 1 2) ∧
    decode [0x81, 0x24] = .accept (.addReg 1 2) ∧ decode [0x81, 0x25] = .accept (.subReg 1 2) ∧
    decode [0x81, 0x26] = .accept (.shr 1 2) ∧ decode [0x81, 0x27] = .accept (.subnReg 1 2) ∧
    decode [0x81, 0x2E] = .accept (.shl 1 2) ∧ decode [0xC3, 0x0F] = .accept (.rnd 3 0x0F) := by decide

theorem test_decode_index_display :
    decode [0xAF, 0xFF] = .accept (.ldI 0xFFF) ∧ decode [0xF1, 0x1E] = .accept (.addI 1) ∧
    decode [0xF1, 0x29] = .accept (.ldF 1) ∧ decode [0xF1, 0x33] = .accept (.ldB 1) ∧
    decode [0xF2, 0x55] = .accept (.stRegs 2) ∧ decode [0xF2, 0x65] = .accept (.ldRegs 2) ∧
    decode [0x00, 0xE0] = .accept .cls ∧ decode [0xD1, 0x25] = .accept (.drw 1 2 5) := by decide

theorem test_decode_keypad_timers :
    decode [0xE3, 0x9E] = .accept (.skp 3) ∧ decode [0xE3, 0xA1] = .accept (.sknp 3) ∧
    decode [0xF2, 0x0A] = .accept (.ldVxK 2) ∧ decode [0xF1, 0x07] = .accept (.ldVxDT 1) ∧
    decode [0xF4, 0x15] = .accept (.ldDTVx 4) ∧ decode [0xF4, 0x18] = .accept (.ldSTVx 4) := by decide

/-- T94 to T101, T18, T44, T84, T93. -/
theorem test_decode_rejects :
    decode [0x00, 0x00] = .reject (.unknownOpcode 0x0 0x0000) ∧
    decode [0x00, 0xE1] = .reject (.unknownOpcode 0x0 0x00E1) ∧
    decode [0x51, 0x21] = .reject (.unknownOpcode 0x5 0x5121) ∧
    decode [0x81, 0x28] = .reject (.unknownOpcode 0x8 0x8128) ∧
    decode [0x81, 0x2F] = .reject (.unknownOpcode 0x8 0x812F) ∧
    decode [0x9A, 0xB1] = .reject (.unknownOpcode 0x9 0x9AB1) ∧
    decode [0xE1, 0x1E] = .reject (.unknownOpcode 0xE 0xE11E) ∧
    decode [0xF1, 0x75] = .reject (.unknownOpcode 0xF 0xF175) ∧
    decode [0x60] = .reject .truncated ∧ decode [] = .reject .truncated := by decide

theorem test_decodeTableWord :
    decodeTableWord 16 0x8124 = some (.addReg 1 2) ∧ decodeTableWord 16 0x5121 = none := by decide

/-! ### Single steps -/

/-- Reset, with the word where the next step fetches. -/
def ready (w : Nat) : State := State.reset.withFetchWord 16 w

/-- One step succeeds and the state after it passes `p`. -/
def gives (s : State) (p : State → Bool) : Bool :=
  match step s with
  | .next t => p t
  | .fault _ => false
  | .refused _ => false

/-- One step ends in error `f`. -/
def errs (s : State) (f : Fault) : Bool :=
  match step s with
  | .next _ => false
  | .fault g => f == g
  | .refused _ => false

/-- A byte put in memory. -/
def poke (s : State) (a : Nat) (bs : List Byte) : State := s.memWrite a bs

/-- T1. -/
theorem test_ret :
    gives { ready 0x00EE with sp := 2, stack := (State.reset.stack.set 0 0x202).set 1 0x30A }
      (fun t => t.pc == 0x30C && t.sp == 1 && t.stack[1] == 0x30A) = true := by decide

/-- T2, S3. -/
theorem test_ret_empty : errs (ready 0x00EE) .stackUnderflow = true := by decide

/-- T4: an odd target. -/
theorem test_jp : gives (ready 0x1301) (fun t => t.pc == 0x301) = true := by decide

/-- T5. -/
theorem test_call :
    gives (({ State.reset with pc := 0x2F0, sp := 15 }).withFetchWord 16 0x2ABC)
      (fun t => t.pc == 0xABC && t.sp == 16 && t.stack[15] == 0x2F0) = true := by decide

/-- T6. -/
theorem test_call_full : errs { ready 0x2ABC with sp := 16 } .stackOverflow = true := by decide

/-- T8. -/
theorem test_jpV0 : gives ((ready 0xBFFF).setV 0 0xFF) (fun t => t.pc == 0x10FE) = true := by decide

/-- T12, T13. -/
theorem test_seImm :
    gives ((ready 0x3F01).setV 15 1) (fun t => t.pc == 0x204) = true ∧
    gives (ready 0x3F01) (fun t => t.pc == 0x202) = true := by decide

/-- T14, T15. -/
theorem test_sneImm :
    gives ((ready 0x4A05).setV 10 5) (fun t => t.pc == 0x202) = true ∧
    gives ((ready 0x4A05).setV 10 6) (fun t => t.pc == 0x204) = true := by decide

/-- R67's example. -/
theorem test_seReg :
    gives (((ready 0x5120).setV 1 7).setV 2 7) (fun t => t.pc == 0x204) = true ∧
    gives (((ready 0x5120).setV 1 7).setV 2 8) (fun t => t.pc == 0x202) = true := by decide

/-- R68's example. -/
theorem test_sneReg :
    gives (((ready 0x9120).setV 1 7).setV 2 8) (fun t => t.pc == 0x204) = true ∧
    gives (((ready 0x9120).setV 1 7).setV 2 7) (fun t => t.pc == 0x202) = true := by decide

/-- T9, T10: the last fetchable address and the one after it. -/
theorem test_fetch_bound :
    gives (({ State.reset with pc := 0xFFE }).withFetchWord 16 0x1200) (fun t => t.pc == 0x200) = true ∧
    errs { State.reset with pc := 0xFFF } .outOfBounds = true ∧
    errs { State.reset with pc := 0x10FE } .outOfBounds = true := by decide

/-- T18. -/
theorem test_unknown : errs (ready 0x5121) (.unknownOpcode 0x5 0x5121) = true := by decide

/-- T20. -/
theorem test_ldImm : gives (ready 0x6FAB) (fun t => t.getV 15 == 0xAB && t.pc == 0x202) = true := by decide

/-- T21. -/
theorem test_addImm :
    gives (((ready 0x7101).setV 1 0xFF).setV 15 7) (fun t => t.getV 1 == 0 && t.getV 15 == 7) = true := by decide

/-- T23. -/
theorem test_ldReg : gives ((ready 0x8120).setV 2 0x3C) (fun t => t.getV 1 == 0x3C && t.getV 2 == 0x3C) = true := by decide

/-- T24. -/
theorem test_or :
    gives ((((ready 0x8121).setV 1 0x0F).setV 2 0xF1).setV 15 1) (fun t => t.getV 1 == 0xFF && t.getV 15 == 1) = true := by
  decide

/-- T25. -/
theorem test_and :
    gives ((((ready 0x8122).setV 1 0x0F).setV 2 0xF1).setV 15 1) (fun t => t.getV 1 == 0x01 && t.getV 15 == 1) = true := by
  decide

/-- R76's example. -/
theorem test_xor : gives (((ready 0x8123).setV 1 0x0F).setV 2 0xF1) (fun t => t.getV 1 == 0xFE) = true := by decide

/-- T27, T28. -/
theorem test_addReg :
    gives (((ready 0x8124).setV 1 0xF0).setV 2 0x20) (fun t => t.getV 1 == 0x10 && t.getV 15 == 1) = true ∧
    gives ((((ready 0x8124).setV 1 0x7F).setV 2 0x80).setV 15 1) (fun t => t.getV 1 == 0xFF && t.getV 15 == 0) = true := by
  decide

/-- T31, T32: the flag register as destination and as operand. -/
theorem test_addReg_flag_operand :
    gives (((ready 0x8F14).setV 15 1).setV 1 2) (fun t => t.getV 15 == 0) = true ∧
    gives (((ready 0x81F4).setV 1 0xFF).setV 15 1) (fun t => t.getV 1 == 0 && t.getV 15 == 1) = true := by decide

/-- T34, T35. -/
theorem test_sub :
    gives ((((ready 0x8125).setV 1 5).setV 2 7).setV 15 1) (fun t => t.getV 1 == 0xFE && t.getV 15 == 0) = true ∧
    gives (((ready 0x8125).setV 1 7).setV 2 7) (fun t => t.getV 1 == 0 && t.getV 15 == 1) = true := by decide

/-- T37, T39. -/
theorem test_shr :
    gives (((ready 0x8126).setV 1 5).setV 2 0xFF) (fun t => t.getV 1 == 2 && t.getV 15 == 1 && t.getV 2 == 0xFF) = true ∧
    gives ((ready 0x8F06).setV 15 3) (fun t => t.getV 15 == 1) = true := by decide

/-- T40, T41. -/
theorem test_subn :
    gives (((ready 0x8127).setV 1 5).setV 2 7) (fun t => t.getV 1 == 2 && t.getV 15 == 1) = true ∧
    gives ((((ready 0x8127).setV 1 7).setV 2 5).setV 15 1) (fun t => t.getV 1 == 0xFE && t.getV 15 == 0) = true := by decide

/-- T42, T43. -/
theorem test_shl :
    gives ((ready 0x812E).setV 1 0x81) (fun t => t.getV 1 == 2 && t.getV 15 == 1) = true ∧
    gives (((ready 0x810E).setV 1 0x40).setV 15 1) (fun t => t.getV 1 == 0x80 && t.getV 15 == 0) = true := by decide

/-- T45: `rnd = 0xA7`, supplied with the requested cycle. -/
theorem test_rnd : gives { ready 0xC30F with pending := [.cycle 0xA7] } (fun t => t.getV 3 == 0x07) = true := by decide

/-- T46 on a free byte: what is certain whatever `rnd` is. -/
theorem test_rnd_masked : gives ((ready 0xC300).setV 3 9) (fun t => t.pc == 0x202) = true := by decide

/-- T48. -/
theorem test_ldI : gives (ready 0xAFFF) (fun t => t.I == 0x0FFF) = true := by decide

/-- T49, T50. -/
theorem test_addI :
    gives (((ready 0xF11E).setI 0x0FFF).setV 1 1) (fun t => t.I == 0x1000 && t.getV 15 == 0) = true ∧
    gives (((ready 0xF11E).setI 0xFFFF).setV 1 2) (fun t => t.I == 1) = true := by decide

/-- T52. -/
theorem test_ldF : gives ((ready 0xF129).setV 1 0xFF) (fun t => t.I == 0x04FB) = true := by decide

/-- T55. -/
theorem test_ldB :
    gives (((ready 0xF133).setV 1 123).setI 4093)
      (fun t => t.memRead 0xFFD == 1 && t.memRead 0xFFE == 2 && t.memRead 0xFFF == 3) = true := by decide

/-- T56. -/
theorem test_ldB_out : errs (((ready 0xF133).setV 1 123).setI 4094) .outOfBounds = true := by decide

/-- T57. -/
theorem test_stRegs :
    gives (((((ready 0xF255).setV 0 0x11).setV 1 0x22).setV 2 0x33).setI 0x300)
      (fun t => t.memRead 0x300 == 0x11 && t.memRead 0x302 == 0x33 && t.memRead 0x303 == 0 && t.I == 0x300) = true := by
  decide

/-- T59. -/
theorem test_stRegs_out : errs ((ready 0xFF55).setI 4081) .outOfBounds = true := by decide

/-- T60. -/
theorem test_ldRegs :
    gives ((poke (ready 0xF165) 0x300 [0xAA, 0xBB, 0xCC]).setI 0x300 |>.setV 2 5)
      (fun t => t.getV 0 == 0xAA && t.getV 1 == 0xBB && t.getV 2 == 5) = true := by decide

/-- T61. -/
theorem test_ldRegs_out : errs ((ready 0xF165).setI 4095) .outOfBounds = true := by decide

/-- T64. -/
theorem test_cls :
    gives ((ready 0x00E0).xorCells [0, 2047])
      (fun t => !t.cell 0 && !t.cell 2047 && t.drawPending && t.getV 15 == 0) = true := by decide

/-- T67, T71. -/
theorem test_drw :
    gives (((poke (ready 0xD011) 0x300 [0xC0]).setI 0x300).xorCells [1])
      (fun t => t.cell 0 && !t.cell 1 && t.getV 15 == 1 && t.drawPending) = true ∧
    gives ((((poke (ready 0xD011) 0x300 [0xC0]).setI 0x300).setV 0 62).setV 1 31)
      (fun t => t.cell 2046 && t.cell 2047 && t.getV 15 == 0) = true := by decide

/-- T72, T75, T68. -/
theorem test_drw_bounds :
    errs ((((poke (ready 0xD011) 0x300 [0xE0]).setI 0x300).setV 0 62).setV 1 31) .outOfBounds = true ∧
    errs ((ready 0xD012).setI 4095) .outOfBounds = true ∧
    gives (((ready 0xD120).setI 0xFFFF).setV 15 1) (fun t => t.getV 15 == 0 && t.drawPending) = true := by decide

/-- T78, T82. -/
theorem test_skp :
    gives (((ready 0xE39E).setV 3 0xA).setKey 0xA true) (fun t => t.pc == 0x204) = true ∧
    errs ((ready 0xE39E).setV 3 16) .outOfBounds = true := by decide

/-- T81, T83. -/
theorem test_sknp :
    gives (((ready 0xE3A1).setV 3 0xA).setKey 0xA true) (fun t => t.pc == 0x202) = true ∧
    errs ((ready 0xE3A1).setV 3 255) .outOfBounds = true := by decide

/-- T85. -/
theorem test_ldVxK_waits :
    gives ((ready 0xF20A).setV 2 0x77) (fun t => t.pc == 0x200 && t.getV 2 == 0x77) = true := by decide

/-- T87. -/
theorem test_ldVxK :
    gives (((ready 0xF20A).setKey 4 true).setKey 9 true) (fun t => t.getV 2 == 9 && t.pc == 0x202) = true := by decide

/-- T89. -/
theorem test_ldVxDT : gives ((ready 0xF107).setDelay 0x2A) (fun t => t.getV 1 == 0x2A && t.delayTimer == 0x2A) = true := by
  decide

/-- T90. -/
theorem test_ldDTVx : gives (((ready 0xF015).setV 0 3).setDelay 9) (fun t => t.delayTimer == 3) = true := by decide

/-- T91, T92. -/
theorem test_ldSTVx :
    gives ((ready 0xF418).setV 4 0x10) (fun t => t.soundTimer == 0x10 && t.soundOn) = true ∧
    gives ((ready 0xF418).setSound 5) (fun t => t.soundTimer == 0 && !t.soundOn && t.outputs == []) = true := by decide

/-! ### Host operations -/

/-- K2, K4. -/
theorem test_tick :
    gives { (State.reset.setDelay 5).setSound 1 with pending := [.tick] }
      (fun t => t.delayTimer == 4 && t.soundTimer == 0 && t.outputs == [.soundStopped]) = true ∧
    gives { State.reset.setDelay 255 with pending := [.tick] }
      (fun t => t.delayTimer == 254 && t.soundTimer == 0 && t.outputs == [.ok]) = true := by decide

/-- K6, K7. -/
theorem test_setKey_ackDraw :
    gives { State.reset with pending := [.setKey 7 true] } (fun t => t.keyHeld 7 && !t.keyHeld 6) = true ∧
    gives { State.reset.setDrawPending true with pending := [.ackDraw] } (fun t => !t.drawPending) = true := by decide

/-- R143 on a two-byte image. -/
theorem test_load :
    gives { State.reset with pending := [.load [0x60, 0x0A]] }
      (fun t => t.memRead 0x200 == 0x60 && t.memRead 0x201 == 0x0A && t.pc == 0x200) = true := by decide

/-- K9: 3585 bytes. -/
theorem test_load_too_long : operate (.load (List.replicate 3585 0xAB)) State.reset = .fault .loadError := by
  have h : State.reset.loadOp (List.replicate 3585 0xAB) = none := by
    unfold State.loadOp
    rw [List.length_replicate, if_neg (by decide)]
  simp only [operate, h]

/-- K12. -/
theorem test_cycle_after_reset : errs State.reset (.unknownOpcode 0x0 0x0000) = true := by decide

/-- K13: an error is not latched, and the history goes on. -/
theorem test_history_goes_on :
    (history [.cycle 0, .setKey 3 true, .cycle 0] State.reset).2 =
      [.error (.unknownOpcode 0 0), .ok, .error (.unknownOpcode 0 0)] ∧
    (history [.cycle 0, .setKey 3 true, .cycle 0] State.reset).1.keyHeld 3 = true := by decide

/-! ### The canonical form of memory -/

theorem test_memory_canonical :
    (poke State.reset 0x300 [1, 2]).mem = [(0x300, 1), (0x301, 2)] ∧
    (poke (poke State.reset 0x300 [1, 2]) 0x300 [0]).mem = [(0x301, 2)] ∧
    (poke State.reset 0 [0xF0, 0x91]).mem = [(1, 0x91)] := by decide

theorem test_reset_memory_wf : State.reset.mem.wf := Memory.wf_nil

/-! ### Witnesses: each statement's hypotheses are met together -/

theorem witness_EveryRowDecodesItsOperands : (0 : Nat) < 16 ∧ (15 : Nat) < 16 := by decide

theorem witness_DecodeOfEncodeIsTheInstruction : (Instr.drw 15 15 15).wf = true ∧ (Instr.jp 0xFFF).wf = true := by decide

theorem witness_EncodeOfDecodeIsTheWord : decodeWord 0xD125 = some (.drw 1 2 5) := by decide

/-- Both sides of the equivalence, a word for each class of R51 and the words next to the two of class 0. -/
theorem witness_DecoderRejectsExactlyTheUnknownWords :
    unknownWord 0x00DF ∧ unknownWord 0x00EF ∧ unknownWord 0x5001 ∧ unknownWord 0x800F ∧ unknownWord 0x900F ∧
    unknownWord 0xE09D ∧ unknownWord 0xF066 ∧ ¬ unknownWord 0x00E0 ∧ ¬ unknownWord 0x800E ∧ ¬ unknownWord 0xDFFF := by
  refine ⟨?_, ?_, ?_, ?_, ?_, ?_, ?_, ?_, ?_, ?_⟩ <;> decide

theorem witness_FetchReadsBigEndianOrIsOutOfBounds :
    (4096 ≤ (State.reset.setPc 0xFFF).pc.toNat + 1) ∧ ((State.reset.setPc 0xFFE).pc.toNat + 1 < 4096) := by decide

theorem witness_StepRunsTheDecodedInstruction :
    (ready 0x8124).pending = [] ∧ (ready 0x8124).pc.toNat + 1 < 4096 ∧
    decode [(ready 0x8124).memRead (ready 0x8124).pc.toNat, (ready 0x8124).memRead ((ready 0x8124).pc.toNat + 1)]
      = .accept (.addReg 1 2) := by decide

theorem witness_RequestedCycleRunsTheDecodedInstruction :
    let s := { ready 0x00EE with pending := [.cycle 0xA7, .tick] }
    (s.pc.toNat + 1 < 4096 ∧ decode [s.memRead s.pc.toNat, s.memRead (s.pc.toNat + 1)] = .accept .ret) ∧
    exec .ret { s with pending := [.tick], rndIn := some 0xA7 } = .fault .stackUnderflow ∧
    ∃ t, exec .ret { s with pending := [.tick], rndIn := some 0xA7, sp := 1 } = .next t :=
  ⟨by decide, rfl, _, rfl⟩

theorem witness_UnknownOpcodeIsRaisedByDecodeAlone : cycle State.reset = .fault (.unknownOpcode 0 0) := rfl

theorem witness_StackOverflowOnlyByCallOnFullStack :
    exec (.call 0x200) { State.reset with sp := 16 } = .fault .stackOverflow := rfl

theorem witness_StackUnderflowOnlyByReturnOnEmptyStack : exec .ret State.reset = .fault .stackUnderflow := rfl

theorem witness_OutOfBoundsHasExactlyItsCauses :
    exec (.drw 0 1 1) (State.reset.setI 4096) = .fault .outOfBounds ∧
    exec (.drw 0 1 1) (State.reset.setV 1 32) = .fault .outOfBounds ∧
    exec (.ldB 0) (State.reset.setI 4094) = .fault .outOfBounds ∧
    exec (.stRegs 15) (State.reset.setI 4081) = .fault .outOfBounds ∧
    exec (.ldRegs 0) (State.reset.setI 4096) = .fault .outOfBounds ∧
    exec (.skp 0) (State.reset.setV 0 16) = .fault .outOfBounds ∧
    exec (.sknp 0) (State.reset.setV 0 16) = .fault .outOfBounds := ⟨rfl, rfl, rfl, rfl, rfl, rfl, rfl⟩

theorem witness_LoadErrorOnlyByLoadOfALongImage : 3584 < (List.replicate 3585 (0 : Byte)).length := by
  rw [List.length_replicate]
  decide

theorem witness_FailedCycleFailsAgainUntilResetOrLoad :
    operate (.cycle 0) State.reset = .fault (.unknownOpcode 0 0) ∧
    operate .tick State.reset = .next (State.reset.tickOp, .ok) := ⟨rfl, rfl⟩

/-- A success with registers it may not write, a call to its own address, a waiting `Fx0A`. -/
theorem witness_EachElementHasOnlyItsWriters :
    (∃ t, exec (.ldRegs 14) State.reset = .next t ∧ ¬ writesV (.ldRegs 14) 15) ∧
    (∃ t, exec (.call 0x200) State.reset = .next t ∧ t.pc = State.reset.pc) ∧
    (∃ t, exec (.ldVxK 3) State.reset = .next t ∧ t.pc = State.reset.pc) ∧ (∀ k, State.reset.keyHeld k = false) :=
  ⟨⟨_, rfl, by simp [writesV]⟩, ⟨_, rfl, rfl⟩, ⟨_, rfl, rfl⟩, by decide⟩

theorem witness_FlagRegisterHasOnlyItsWriters :
    (∃ t, exec (.addReg 1 2) (State.reset.setV 15 7) = .next t ∧ t.getV 15 ≠ (State.reset.setV 15 7).getV 15) ∧
    (∃ t, exec (.ldImm 15 2) State.reset = .next t ∧ t.getV 15 ≠ State.reset.getV 15) :=
  ⟨⟨_, rfl, by decide⟩, _, rfl, by decide⟩

theorem witness_PcMovesAsTheTableSays :
    (∃ t, exec (.jpV0 0xFFF) (State.reset.setV 0 0xFF) = .next t) ∧ (∃ t, exec (.ldVxK 0) State.reset = .next t) ∧
    (∃ t, exec .ret { State.reset with sp := 1 } = .next t) := ⟨⟨_, rfl⟩, ⟨_, rfl⟩, _, rfl⟩

theorem witness_OnlyRandomReadsTheRandomByte :
    (∀ x nn, Instr.ret ≠ .rnd x nn) ∧ exec .ret State.reset = .fault .stackUnderflow ∧
    ∃ t, exec .ret { State.reset with sp := 1 } = .next t := ⟨fun _ _ h => (by cases h), rfl, _, rfl⟩

theorem witness_NoInstructionReadsSoundTimerOrDirtyFlag :
    SameExcept [.soundTimer, .drawPending] State.reset ((State.reset.setSound 5).setDrawPending true) ∧
    exec .ret State.reset = .fault .stackUnderflow ∧ ∃ t, exec .cls State.reset = .next t := by
  refine ⟨fun e he => ?_, rfl, _, rfl⟩
  cases e <;> first | exact absurd (by decide) he | exact fun _ => rfl | rfl | exact ⟨rfl, rfl, rfl⟩

theorem witness_RandomWritesTheMaskedByte : { State.reset with rndIn := some 0xA7 }.rndIn = some 0xA7 := rfl

theorem witness_CallPushesItsOwnAddressAndReturnComesBack :
    { State.reset with sp := 15 }.sp.val < 16 ∧ { State.reset with sp := 16 }.sp = 16 := by decide

theorem witness_ReturnPopsAndGoesTwoPast :
    { State.reset with sp := 1 }.sp.val ≠ 0 ∧ { State.reset with sp := 16 }.sp.val ≠ 0 ∧ State.reset.sp = 0 := by decide

theorem witness_SelfJumpLeavesTheStateUnchanged :
    let s := ready 0x1200
    s.pending = [] ∧ s.pc.toNat = (0x200 : BitVec 12).toNat ∧ (0x200 : BitVec 12).toNat ≤ 0xFFE ∧
    256 * (s.memRead s.pc.toNat).toNat + (s.memRead (s.pc.toNat + 1)).toNat = 0x1000 + (0x200 : BitVec 12).toNat := by
  decide

theorem witness_BcdStoresThreeDigits :
    (State.reset.setI 4093).I.toNat + 3 ≤ 4096 ∧ 4096 < (State.reset.setI 4094).I.toNat + 3 := by decide

theorem witness_StoreRegistersWritesTheRange :
    (State.reset.setI 4080).I.toNat + (15 : Reg).val + 1 ≤ 4096 ∧
    4096 < (State.reset.setI 4081).I.toNat + (15 : Reg).val + 1 := by decide

theorem witness_LoadRegistersReadsTheRangeAndRoundTrips :
    ((State.reset.setI 4095).I.toNat + (0 : Reg).val + 1 ≤ 4096 ∧
      4096 < (State.reset.setI 4095).I.toNat + (1 : Reg).val + 1) ∧
    ∃ t, exec (.stRegs 2) State.reset = .next t ∧ Elem.same t (t.setV 0 9) .mem ∧ (t.setV 0 9).I = State.reset.I :=
  ⟨by decide, _, rfl, fun _ => rfl, rfl⟩

theorem witness_StoreIsSeenByTheNextFetch :
    let s := State.reset.setI 0x202
    (∃ t, exec (.stRegs 1) s = .next t) ∧ s.pc.toNat + 3 < 4096 ∧ s.I.toNat = s.pc.toNat + 2 ∧ 1 ≤ (1 : Reg).val :=
  ⟨⟨_, rfl⟩, by decide⟩

/-- The position (62, 31) with the row 0xC0: the last two cells. -/
theorem witness_DrawTogglesTheSpriteAndReportsCollision :
    let s := (((poke State.reset 0x300 [0xC0]).setI 0x300).setV 0 62).setV 1 31
    (1 = 0 ∨ s.I.toNat + 1 ≤ 4096) ∧ (∀ k, inSprite s 0 1 1 k → k < 2048) ∧ inSprite s 0 1 1 2047 := by
  refine ⟨by decide, ?_, 0, by decide, 1, by decide, by decide, by decide⟩
  rintro k ⟨dy, hdy, dx, hdx, hbit, rfl⟩
  obtain rfl : dy = 0 := by omega
  revert hbit
  revert dx
  decide

theorem witness_DrawingTwiceRestoresTheFramebuffer :
    (0 : Reg) ≠ 15 ∧ (1 : Reg) ≠ 15 ∧ ∃ t, exec (.drw 0 1 1) (poke State.reset 0 [0xFF]) = .next t :=
  ⟨by decide, by decide, _, rfl⟩

theorem witness_KeySkipsTestOneKey :
    ((State.reset.setV 0 15).getV 0).toNat = (15 : Fin 16).val ∧ 15 < ((State.reset.setV 0 16).getV 0).toNat := by decide

theorem witness_KeyWaitTakesTheHighestHeldKey :
    (∀ k, State.reset.keyHeld k = false) ∧
    ((State.reset.setKey 0 true).keyHeld 0 = true ∧ ∀ j, 0 < j → (State.reset.setKey 0 true).keyHeld j = false) ∧
    ((State.reset.setKey 15 true).keyHeld 15 = true ∧ ∀ j, 15 < j → (State.reset.setKey 15 true).keyHeld j = false) := by
  decide

theorem witness_KeyWriteAndAckDrawChangeOneFlag :
    (∃ t, exec (.ldImm 0 1) (State.reset.setDrawPending true) = .next t) ∧
    (State.reset.setDrawPending true).drawPending = true ∧ (0 : Fin 16) ≠ 15 := ⟨⟨_, rfl⟩, rfl, by decide⟩

theorem witness_LoadCopiesTheImage :
    ([] : List Byte).length ≤ 3584 ∧ (List.replicate 3584 (0xAB : Byte)).length ≤ 3584 ∧
    3584 < (List.replicate 3585 (0xAB : Byte)).length := by
  rw [List.length_replicate, List.length_replicate]
  decide

theorem witness_StepPerformsTheOldestRequest :
    (operate .tick State.reset = .next (State.reset.tickOp, .ok)) ∧
    (operate (.load (List.replicate 3585 0xAB)) State.reset = .fault .loadError) ∧
    { State.reset with pending := [.observe] }.pending = .observe :: [] :=
  ⟨rfl, test_load_too_long, rfl⟩

theorem witness_EveryStepKeepsTheReachableBounds : Inv (ready 0x6001) ∧ ∃ t, step (ready 0x6001) = .next t :=
  ⟨⟨by decide, by decide, by decide⟩, _, rfl⟩

/-- The last address a fetch can use, with the highest live return address and the highest indexed jump. -/
def edge : State := { (State.reset.setV 0 0xFF).setPc 0xFFE with sp := 1, stack := State.reset.stack.set 0 0xFFE }

theorem witness_PcNeverWraps :
    (Inv edge ∧ edge.pc.toNat + 1 < 4096) ∧ (∃ t, exec (.call 0xFFF) edge = .next t) ∧
    (∃ t, exec (.jpV0 0xFFF) edge = .next t ∧ t.pc = 0x10FE) ∧ (∃ t, exec .ret edge = .next t ∧ t.pc = 0x1000) ∧
    (∃ t, exec (.seImm 0 0xFF) edge = .next t ∧ t.pc = 0x1002) ∧ ∃ t, exec (.ldVxK 0) edge = .next t ∧ t.pc = 0xFFE :=
  ⟨⟨⟨by decide, by decide, by decide⟩, by decide⟩, ⟨_, rfl⟩, ⟨_, rfl, rfl⟩, ⟨_, rfl, rfl⟩, ⟨_, rfl, rfl⟩, _, rfl, rfl⟩

theorem witness_EqualContentsAreEqualMemories :
    Memory.wf [(0x300, 1), (0xFFF, 2)] ∧ Memory.wf (Memory.write [(0xFFF, 2)] 0x300 1) := by decide

end Sys2Proof.Tests
end

section
/-! PROOFS. The frame of each instruction: the data each named update writes, when the instructions that can fail succeed,
and R27's table of writers by row and by column. -/

namespace Sys2Proof.Machine

/-! ### The parts of a state as data -/

/-- The type of the data one part of the state holds. -/
abbrev Elem.Data : Elem → Type
  | .mem => Memory
  | .V => Vector Byte 16
  | .I | .pc => Word
  | .stack => Vector Word 16
  | .sp => Fin 17
  | .delayTimer | .soundTimer => Byte
  | .keypad => Vector Bool 16
  | .fb => Vector (BitVec 64) 32
  | .drawPending => Bool
  | .draws => Nat
  | .host => Option Byte × List HostOp × List HostResult

/-- The data itself. Equal data is more than `Elem.same`, which compares memory by what its addresses read as. -/
def Elem.get (s : State) : (e : Elem) → e.Data
  | .mem => s.mem
  | .V => s.V
  | .I => s.I
  | .pc => s.pc
  | .stack => s.stack
  | .sp => s.sp
  | .delayTimer => s.delayTimer
  | .soundTimer => s.soundTimer
  | .keypad => s.keypad
  | .fb => s.fb
  | .drawPending => s.drawPending
  | .draws => s.draws
  | .host => (s.rndIn, s.pending, s.outputs)

section
variable (s t : State) {e : Elem}

/-- Parts with equal data agree. -/
theorem Elem.same_of_get_eq (h : e.get t = e.get s) : e.same s t := by
  cases e with
  | mem => exact fun a => congrArg (Memory.read · a) h
  | V => exact fun r => congrArg (fun v : Vector Byte 16 => v[r.val]) h
  | keypad => exact fun k => congrArg (fun v : Vector Bool 16 => v[k.val]) h
  | fb =>
    have hfb : t.fb = s.fb := h
    intro k
    simp only [State.cell, hfb]
  | host =>
    obtain ⟨hr, hpo⟩ := Prod.mk.inj h
    exact ⟨hr, Prod.mk.inj hpo⟩
  | _ => exact h

/-! ### The part each update writes -/

@[simp] theorem get_setV (x : Reg) (v : Byte) (he : e ≠ .V) : e.get (s.setV x v) = e.get s := by
  cases e with
  | V => exact absurd rfl he
  | _ => rfl

@[simp] theorem get_setVFlag (x : Reg) (v : Byte) (f : Bool) (he : e ≠ .V) : e.get (s.setVFlag x v f) = e.get s := by
  simp [State.setVFlag, State.setFlag, he]

@[simp] theorem get_loadRegs (x : Reg) (a : Nat) (he : e ≠ .V) : e.get (s.loadRegs x a) = e.get s := by
  cases e with
  | V => exact absurd rfl he
  | _ => simp [Elem.get]

@[simp] theorem get_setPc (p : Word) (he : e ≠ .pc) : e.get (s.setPc p) = e.get s := by
  cases e with
  | pc => exact absurd rfl he
  | _ => rfl

@[simp] theorem get_advance (he : e ≠ .pc) : e.get s.advance = e.get s := get_setPc s _ he

@[simp] theorem get_setI (v : Word) (he : e ≠ .I) : e.get (s.setI v) = e.get s := by
  cases e with
  | I => exact absurd rfl he
  | _ => rfl

@[simp] theorem get_setDelay (v : Byte) (he : e ≠ .delayTimer) : e.get (s.setDelay v) = e.get s := by
  cases e with
  | delayTimer => exact absurd rfl he
  | _ => rfl

@[simp] theorem get_setSound (v : Byte) (he : e ≠ .soundTimer) : e.get (s.setSound v) = e.get s := by
  cases e with
  | soundTimer => exact absurd rfl he
  | _ => rfl

@[simp] theorem get_setDrawPending (b : Bool) (he : e ≠ .drawPending) :
    e.get (s.setDrawPending b) = e.get s := by
  cases e with
  | drawPending => exact absurd rfl he
  | _ => rfl

@[simp] theorem get_memWrite (a : Nat) (bs : List Byte) (he : e ≠ .mem) : e.get (s.memWrite a bs) = e.get s := by
  cases e with
  | mem => exact absurd rfl he
  | _ => rfl

@[simp] theorem get_clearCells (he : e ≠ .fb) : e.get s.clearCells = e.get s := by
  cases e with
  | fb => exact absurd rfl he
  | _ => rfl

@[simp] theorem get_xorCells (S : List Nat) (he : e ≠ .fb) : e.get (s.xorCells S) = e.get s := by
  cases e with
  | fb => exact absurd rfl he
  | _ => simp [Elem.get]

@[simp] theorem get_draw (S : List Nat) (hV : e ≠ .V) (hfb : e ≠ .fb) (hd : e ≠ .drawPending) :
    e.get (s.draw S) = e.get s := by
  simp [State.draw, State.setFlag, hV, hfb, hd]

@[simp] theorem get_drawn (he : e ≠ .draws) : e.get s.drawn = e.get s := by
  cases e with
  | draws => exact absurd rfl he
  | _ => rfl

theorem get_of_pushPc (h : s.pushPc = some t) (hs : e ≠ .stack) (hp : e ≠ .sp) : e.get t = e.get s := by
  obtain ⟨_, rfl⟩ := (s.pushPc_some).1 h
  cases e with
  | stack => exact absurd rfl hs
  | sp => exact absurd rfl hp
  | _ => rfl

theorem get_of_pop {a : Word} (h : s.pop = some (a, t)) (hp : e ≠ .sp) : e.get t = e.get s := by
  obtain ⟨_, _, rfl⟩ := (s.pop_some).1 h
  cases e with
  | sp => exact absurd rfl hp
  | _ => rfl

end

/-! ### When the instructions that can fail succeed, and to which state -/

section
variable {s t : State}

theorem execRet_next : execRet s = .next t ↔ ∃ a u, s.pop = some (a, u) ∧ t = u.setPc (a + 2) := by
  unfold execRet raise
  rcases s.pop with _ | ⟨a, u⟩ <;> simp [eq_comm]

theorem execCall_next {nnn : BitVec 12} :
    execCall nnn s = .next t ↔ ∃ u, s.pushPc = some u ∧ t = u.setPc (addr16 nnn) := by
  unfold execCall raise
  rcases s.pushPc with _ | u <;> simp [eq_comm]

theorem execDrw_next {x y : Reg} {n : Nat} (h : execDrw x y n s = .next t) :
    t = (s.draw (s.drawSet x y n)).advance := by
  obtain ⟨_, _, hok⟩ | ⟨_, hfail⟩ := execDrw_cases s x y n
  · exact (Host.Outcome.next.inj (hok.symm.trans h)).symm
  · exact nomatch hfail.symm.trans h

theorem execSkp_next {x : Reg} : execSkp x s = .next t ↔
    ∃ k : Fin 16, (s.getV x).toNat = k.val ∧ t = s.setPc (if s.keyHeld k then s.pc + 4 else s.pc + 2) := by
  simp only [← keyIndex_some, execSkp, raise]
  rcases keyIndex (s.getV x) with _ | k <;> simp [skipIf_next]

theorem execSknp_next {x : Reg} : execSknp x s = .next t ↔
    ∃ k : Fin 16, (s.getV x).toNat = k.val ∧ t = s.setPc (if s.keyHeld k then s.pc + 2 else s.pc + 4) := by
  simp only [← keyIndex_some, execSknp, raise]
  rcases keyIndex (s.getV x) with _ | k
  · simp
  · cases hk : s.keyHeld k <;> simp [skipIf_next, hk]

/-- `Fx0A` waits with no key held, and takes a held key otherwise (R102). -/
theorem execLdVxK_next {x : Reg} (h : execLdVxK x s = .next t) :
    ((∀ k, s.keyHeld k = false) ∧ t = s) ∨
    ∃ k : Fin 16, s.keyHeld k = true ∧ t = (s.setV x (BitVec.ofNat 8 k.val)).advance := by
  unfold execLdVxK at h
  obtain ⟨hk, hno⟩ | ⟨k, hk, hheld, _⟩ := s.highestKey_cases <;> rw [hk] at h
  · exact .inl ⟨hno, (Host.Outcome.next.inj h).symm⟩
  · exact .inr ⟨k, hheld, (Host.Outcome.next.inj h).symm⟩

theorem execLdB_next {x : Reg} : execLdB x s = .next t ↔
    s.addrI + 3 ≤ 4096 ∧ t = (s.memWrite s.addrI (bcdBytes (s.getV x))).advance := by
  simp [execLdB, withMemCheck_next, memCheck_iff, eq_comm (a := t)]

theorem execStRegs_next {x : Reg} : execStRegs x s = .next t ↔
    s.addrI + regCount x ≤ 4096 ∧ t = (s.memWrite s.addrI (s.firstRegs x)).advance := by
  simp [execStRegs, withMemCheck_next, memCheck_iff, regCount, eq_comm (a := t)]

theorem execLdRegs_next {x : Reg} : execLdRegs x s = .next t ↔
    s.addrI + regCount x ≤ 4096 ∧ t = (s.loadRegs x s.addrI).advance := by
  simp [execLdRegs, withMemCheck_next, memCheck_iff, regCount, eq_comm (a := t)]

end

/-! ### The frame of each instruction (R27) -/

/-- The parts an instruction can write: the writing half of R27's table, read by row. -/
def changes : Instr → List Elem
  | .cls => [.fb, .drawPending, .pc]
  | .ret => [.sp, .pc]
  | .call _ => [.stack, .sp, .pc]
  | .jp _ | .jpV0 _ | .seImm _ _ | .sneImm _ _ | .seReg _ _ | .sneReg _ _ | .skp _ | .sknp _ => [.pc]
  | .ldImm _ _ | .addImm _ _ | .ldReg _ _ | .orReg _ _ | .andReg _ _ | .xorReg _ _ | .addReg _ _ | .subReg _ _
  | .shr _ _ | .subnReg _ _ | .shl _ _ | .ldVxDT _ | .ldVxK _ | .ldRegs _ => [.V, .pc]
  | .rnd _ _ => [.V, .draws, .pc]
  | .drw _ _ _ => [.V, .fb, .drawPending, .pc]
  | .ldI _ | .addI _ | .ldF _ => [.I, .pc]
  | .ldDTVx _ => [.delayTimer, .pc]
  | .ldSTVx _ => [.soundTimer, .pc]
  | .ldB _ | .stRegs _ => [.mem, .pc]

section
variable {i : Instr}

/-! The same table, read by column: the instructions that can write a part. -/

theorem mem_mem_changes : .mem ∈ changes i ↔ (∃ x, i = .ldB x) ∨ ∃ x, i = .stRegs x := by
  cases i <;> simp [changes]

theorem I_mem_changes : .I ∈ changes i ↔ (∃ nnn, i = .ldI nnn) ∨ (∃ x, i = .addI x) ∨ ∃ x, i = .ldF x := by
  cases i <;> simp [changes]

theorem stack_mem_changes : .stack ∈ changes i ↔ ∃ nnn, i = .call nnn := by
  cases i <;> simp [changes]

theorem sp_mem_changes : .sp ∈ changes i ↔ i = .ret ∨ ∃ nnn, i = .call nnn := by
  cases i <;> simp [changes]

theorem delayTimer_mem_changes : .delayTimer ∈ changes i ↔ ∃ x, i = .ldDTVx x := by
  cases i <;> simp [changes]

theorem soundTimer_mem_changes : .soundTimer ∈ changes i ↔ ∃ x, i = .ldSTVx x := by
  cases i <;> simp [changes]

theorem keypad_not_mem_changes : .keypad ∉ changes i := by
  cases i <;> simp [changes]

theorem fb_mem_changes : .fb ∈ changes i ↔ i = .cls ∨ ∃ x y n, i = .drw x y n := by
  cases i <;> simp [changes]

theorem drawPending_mem_changes : .drawPending ∈ changes i ↔ i = .cls ∨ ∃ x y n, i = .drw x y n := by
  cases i <;> simp [changes]

theorem draws_mem_changes : .draws ∈ changes i ↔ ∃ x nn, i = .rnd x nn := by
  cases i <;> simp [changes]

theorem host_not_mem_changes : .host ∉ changes i := by
  cases i <;> simp [changes]

end

section
variable {i : Instr} {s t : State}

/-- A part that is not in an instruction's row keeps its data. -/
theorem exec_get (h : exec i s = .next t) {e : Elem} (he : e ∉ changes i) : e.get t = e.get s := by
  cases i <;> simp only [changes, List.mem_cons, List.not_mem_nil, or_false, not_or] at he
  case ret =>
    obtain ⟨a, u, hu, rfl⟩ := execRet_next.1 h
    simp [get_of_pop s u hu, he]
  case call =>
    obtain ⟨u, hu, rfl⟩ := execCall_next.1 h
    simp [get_of_pushPc s u hu, he]
  case seImm | sneImm | seReg | sneReg =>
    obtain rfl := skipIf_next.1 h
    simp [he]
  case skp =>
    obtain ⟨k, _, rfl⟩ := execSkp_next.1 h
    simp [he]
  case sknp =>
    obtain ⟨k, _, rfl⟩ := execSknp_next.1 h
    simp [he]
  case drw =>
    obtain rfl := execDrw_next h
    simp [he]
  case ldVxK =>
    obtain ⟨_, rfl⟩ | ⟨k, _, rfl⟩ := execLdVxK_next h
    · rfl
    · simp [he]
  case ldB | stRegs | ldRegs =>
    obtain ⟨_, ht⟩ := withMemCheck_next.1 h
    obtain rfl := Host.Outcome.next.inj ht
    simp [he]
  all_goals
    obtain rfl := Host.Outcome.next.inj h
    simp [he]

/-- The same frame in the words of the statements. -/
theorem exec_sameExcept (h : exec i s = .next t) : SameExcept (changes i) s t :=
  fun _ he => Elem.same_of_get_eq s t (exec_get h he)

end

end Sys2Proof.Machine
end

section
/-! PROOFS. What a successful instruction leaves in the registers, `pc`, memory and the stack, and the invariant: from one
instruction to a cycle, a host request and a step. -/

namespace Sys2Proof.Machine

section
variable {i : Instr} {s t : State}

/-! ### What an instruction writes to registers, `pc`, memory and stack -/

/-- A register that is not in an instruction's row `V` of R27 keeps its value. -/
theorem exec_getV (h : exec i s = .next t) {r : Reg} (hr : ¬ writesV i r) : t.getV r = s.getV r := by
  by_cases hV : Elem.V ∈ changes i
  · cases i <;> simp only [writesV, not_or] at hr
    case ldImm | addImm | ldReg | orReg | andReg | xorReg | addReg | subReg | subnReg | shr | shl | rnd | ldVxDT =>
      obtain rfl := Host.Outcome.next.inj h
      simp [hr]
    case drw =>
      obtain rfl := execDrw_next h
      simp [hr]
    case ldVxK =>
      obtain ⟨_, rfl⟩ | ⟨k, _, rfl⟩ := execLdVxK_next h
      · rfl
      · simp [hr]
    case ldRegs =>
      obtain ⟨_, rfl⟩ := execLdRegs_next.1 h
      simp [hr]
    all_goals simp [changes] at hV
  · exact Elem.same_of_get_eq s t (exec_get h hV) r

/-- `V[0xF]` in a row `V` of R27: the six flag setters, and the instructions that can name it as their destination. -/
theorem flagSetter_or_names_flag_of_writesV (h : writesV i 15) :
    (∃ x y n, i = .addReg x y ∨ i = .subReg x y ∨ i = .subnReg x y ∨ i = .shr x y ∨ i = .shl x y ∨ i = .drw x y n) ∨
    (∃ y nn, i = .ldImm 15 nn ∨ i = .addImm 15 nn ∨ i = .ldReg 15 y ∨ i = .orReg 15 y ∨ i = .andReg 15 y ∨
      i = .xorReg 15 y ∨ i = .rnd 15 nn ∨ i = .ldVxDT 15 ∨ i = .ldVxK 15 ∨ i = .ldRegs 15) := by
  cases i <;> simp only [writesV] at h
  case ldRegs x =>
    obtain rfl : x = 15 := le_antisymm (Fin.le_last x) h
    simp
  case addReg | subReg | subnReg | shr | shl | drw => simp
  all_goals simp [← h]

theorem flagByte_eq_zero_or_one (f : Bool) : flagByte f = 0 ∨ flagByte f = 1 := by
  cases f
  · exact .inl rfl
  · exact .inr rfl

/-- A flag setter leaves a flag byte in `V[0xF]`, whatever its destination (R83). -/
theorem exec_flagSetter {x y : Reg} {n : Nat} (h : exec i s = .next t)
    (hi : i = .addReg x y ∨ i = .subReg x y ∨ i = .subnReg x y ∨ i = .shr x y ∨ i = .shl x y ∨ i = .drw x y n) :
    ∃ f, t.getV 15 = flagByte f := by
  obtain rfl | rfl | rfl | rfl | rfl | rfl := hi
  pick_goal 6
  · obtain rfl := execDrw_next h
    exact ⟨collision s (s.drawSet x y n), by simp⟩
  all_goals
    obtain rfl := Host.Outcome.next.inj h
    exact ⟨_, State.getV_setVFlag s x _ _ 15⟩

/-- `pc` moves by the table of R60. -/
theorem exec_pc (h : exec i s = .next t) : t.pc = pcAfter i s := by
  cases i
  case ret =>
    obtain ⟨a, u, hu, rfl⟩ := execRet_next.1 h
    obtain ⟨hsp, rfl, _⟩ := (s.pop_some).1 hu
    simp only [pcAfter, dif_neg hsp, State.setPc_pc]
  case jp =>
    obtain rfl := Host.Outcome.next.inj h
    simp [pcAfter, addr16]
  case call =>
    obtain ⟨u, _, rfl⟩ := execCall_next.1 h
    simp [pcAfter, addr16]
  case jpV0 =>
    obtain rfl := Host.Outcome.next.inj h
    simp [pcAfter, addr16, byte16, BitVec.ofNat_add]
  case seImm | sneImm | seReg | sneReg =>
    obtain rfl := skipIf_next.1 h
    simp [pcAfter]
  case skp =>
    obtain ⟨k, hk, rfl⟩ := execSkp_next.1 h
    simp [pcAfter, hk, Fin.val_inj]
  case sknp =>
    obtain ⟨k, hk, rfl⟩ := execSknp_next.1 h
    simp [pcAfter, hk, Fin.val_inj]
  case drw =>
    obtain rfl := execDrw_next h
    simp [pcAfter]
  case ldVxK =>
    obtain ⟨hno, rfl⟩ | ⟨k, hk, rfl⟩ := execLdVxK_next h
    · simp [pcAfter, hno]
    · exact (if_pos (c := ∃ k, s.keyHeld k = true) ⟨k, hk⟩).symm
  case ldB | stRegs | ldRegs =>
    obtain ⟨_, ht⟩ := withMemCheck_next.1 h
    obtain rfl := Host.Outcome.next.inj ht
    rfl
  all_goals
    obtain rfl := Host.Outcome.next.inj h
    rfl

/-- An instruction that is no jump, call or return moves `pc` by 2 or 4, or is a `Fx0A` that waits. -/
theorem pcAfter_of_not_jump (hj : ∀ nnn, i ≠ .jp nnn ∧ i ≠ .call nnn ∧ i ≠ .jpV0 nnn) (hr : i ≠ .ret) :
    pcAfter i s = s.pc + 2 ∨ pcAfter i s = s.pc + 4 ∨
      (∃ x, i = .ldVxK x) ∧ (∀ k, s.keyHeld k = false) ∧ pcAfter i s = s.pc := by
  cases i
  case ret => exact absurd rfl hr
  case jp nnn => exact absurd rfl (hj nnn).1
  case call nnn => exact absurd rfl (hj nnn).2.1
  case jpV0 nnn => exact absurd rfl (hj nnn).2.2
  case seImm | sneImm | seReg | sneReg | skp | sknp =>
    simp only [pcAfter]
    split
    · simp
    · simp
  case ldVxK x =>
    by_cases hk : ∃ k, s.keyHeld k = true
    · exact .inl (if_pos hk)
    · exact .inr (.inr ⟨⟨x, rfl⟩, by simpa using hk, if_neg hk⟩)
  all_goals exact .inl rfl

/-- Only a jump, a call, a return or a waiting `Fx0A` can leave `pc` as it was: every other one moves it by 2 or 4. -/
theorem exec_pc_eq (h : exec i s = .next t) (hpc : t.pc = s.pc) :
    (∃ nnn, i = .jp nnn ∨ i = .call nnn ∨ i = .jpV0 nnn) ∨ i = .ret ∨
      (∃ x, i = .ldVxK x) ∧ ∀ k, s.keyHeld k = false := by
  by_cases hj : ∃ nnn, i = .jp nnn ∨ i = .call nnn ∨ i = .jpV0 nnn
  · exact .inl hj
  by_cases hr : i = .ret
  · exact .inr (.inl hr)
  rw [exec_pc h] at hpc
  obtain h2 | h4 | ⟨hi, hno, _⟩ := pcAfter_of_not_jump (s := s) (by simpa using hj) hr
  · simp [h2] at hpc
  · simp [h4] at hpc
  · exact .inr (.inr ⟨hi, hno⟩)

/-- Memory is left as it was, or bytes are written that all lie inside it. -/
theorem exec_mem (h : exec i s = .next t) :
    t.mem = s.mem ∨ ∃ a bs, a + bs.length ≤ 4096 ∧ t.mem = s.mem.writeBytes a bs := by
  by_cases hm : .mem ∈ changes i
  · right
    obtain ⟨x, rfl⟩ | ⟨x, rfl⟩ := mem_mem_changes.1 hm
    · obtain ⟨ha, rfl⟩ := execLdB_next.1 h
      exact ⟨_, bcdBytes (s.getV x), ha, rfl⟩
    · obtain ⟨ha, rfl⟩ := execStRegs_next.1 h
      exact ⟨_, s.firstRegs x, by simpa using ha, rfl⟩
  · exact .inl (exec_get h hm)

/-- After an instruction every live stack entry was one before, or is the address of the call itself. -/
theorem exec_liveEntry (h : exec i s = .next t) {k : Fin 16} (hk : k.val < t.sp.val) :
    (k.val < s.sp.val ∧ t.stack[k.val] = s.stack[k.val]) ∨ t.stack[k.val] = s.pc := by
  by_cases hsp : .sp ∈ changes i
  · obtain rfl | ⟨nnn, rfl⟩ := sp_mem_changes.1 hsp
    · obtain ⟨a, u, hu, rfl⟩ := execRet_next.1 h
      obtain ⟨_, _, rfl⟩ := (s.pop_some).1 hu
      have : k.val < s.sp.val - 1 := hk
      exact .inl ⟨by omega, rfl⟩
    · obtain ⟨u, hu, rfl⟩ := execCall_next.1 h
      obtain ⟨_, rfl⟩ := (s.pushPc_some).1 hu
      have hlt : k.val < s.sp.val + 1 := hk
      by_cases hks : k.val = s.sp.val
      · right
        simp [hks]
      · exact .inl ⟨by omega, by simp [Ne.symm hks]⟩
  · have hspEq : t.sp = s.sp := exec_get h hsp
    have hno : .stack ∉ changes i := fun hs => hsp (sp_mem_changes.2 (.inr (stack_mem_changes.1 hs)))
    have hstack : t.stack = s.stack := exec_get h hno
    exact .inl ⟨hspEq ▸ hk, by rw [hstack]⟩

/-! ### The invariant -/

/-- The invariant speaks of four parts only. -/
theorem Inv.congr (hs : Inv s) (hmem : t.mem = s.mem) (hpc : t.pc = s.pc) (hstack : t.stack = s.stack)
    (hsp : t.sp = s.sp) : Inv t := by
  unfold Inv
  rw [hmem, hpc, hstack, hsp]
  exact hs

theorem Inv.memWrite (hs : Inv s) {a : Nat} {bs : List Byte} (ha : a + bs.length ≤ 4096) : Inv (s.memWrite a bs) := by
  obtain ⟨hmem, hpc, hstack⟩ := hs
  exact ⟨Memory.wf_writeBytes hmem ha, hpc, hstack⟩

theorem inv_reset : Inv State.reset :=
  ⟨Memory.wf_nil, by decide, fun _ hk => absurd hk (Nat.not_lt_zero _)⟩

/-! ### `pc` as a number within the invariant (R14) -/

theorem toNat_pcAfter_jump {nnn : BitVec 12} (hi : i = .jp nnn ∨ i = .call nnn) :
    (pcAfter i s).toNat = nnn.toNat := by
  obtain rfl | rfl := hi <;> simp [pcAfter] <;> omega

theorem toNat_pcAfter_jpV0 (nnn : BitVec 12) :
    (pcAfter (.jpV0 nnn) s).toNat = nnn.toNat + (s.getV 0).toNat := by
  rw [pcAfter, BitVec.toNat_ofNat, Nat.mod_eq_of_lt (by omega)]

/-- A return goes two past the top live entry, which the invariant bounds. -/
theorem toNat_pcAfter_ret (hs : Inv s) (hsp : s.sp.val ≠ 0) :
    ∃ k : Fin 16, k.val + 1 = s.sp.val ∧ (pcAfter .ret s).toNat = s.stack[k.val].toNat + 2 := by
  obtain ⟨_, _, hstack⟩ := hs
  have hle := hstack ⟨s.sp.val - 1, by omega⟩ (Nat.sub_one_lt hsp)
  refine ⟨⟨s.sp.val - 1, by omega⟩, Nat.sub_one_add_one hsp, ?_⟩
  simp only [pcAfter, dif_neg hsp]
  bv_omega

theorem toNat_pcAfter_of_not_jump (hf : s.pc.toNat + 1 < 4096)
    (hj : ∀ nnn, i ≠ .jp nnn ∧ i ≠ .call nnn ∧ i ≠ .jpV0 nnn) (hr : i ≠ .ret) :
    (pcAfter i s).toNat = s.pc.toNat + 2 ∨ (pcAfter i s).toNat = s.pc.toNat + 4 ∨
      (∃ x, i = .ldVxK x) ∧ (∀ k, s.keyHeld k = false) ∧ (pcAfter i s).toNat = s.pc.toNat := by
  obtain h | h | ⟨hi, hk, h⟩ := pcAfter_of_not_jump (s := s) hj hr <;> rw [h]
  · left; bv_omega
  · right; left; bv_omega
  · exact .inr (.inr ⟨hi, hk, rfl⟩)

end

/-- Settles O50: `exec_pc` gives the rule of R60 as a word, and the invariant keeps each rule's sum below 65536. -/
theorem pcNeverWraps : Obligations.PcNeverWraps := by
  unfold Obligations.PcNeverWraps
  intro s t i hs hf h
  rw [exec_pc h]
  refine ⟨fun nnn => toNat_pcAfter_jump, ?_, ?_, toNat_pcAfter_of_not_jump hf⟩
  · rintro nnn rfl
    exact toNat_pcAfter_jpV0 nnn
  · rintro rfl
    obtain ⟨a, u, hu, _⟩ := execRet_next.1 h
    obtain ⟨hsp, _⟩ := (s.pop_some).1 hu
    exact toNat_pcAfter_ret hs hsp

section
variable {i : Instr} {s t : State}

theorem exec_pc_le (hs : Inv s) (hf : s.pc.toNat + 1 < 4096) (h : exec i s = .next t) : t.pc.toNat ≤ 0x10FE := by
  obtain ⟨hjump, hindexed, hret, hother⟩ := pcNeverWraps s t i hs hf h
  obtain ⟨_, _, hstack⟩ := hs
  cases i
  case jp nnn => have := hjump nnn (.inl rfl); omega
  case call nnn => have := hjump nnn (.inr rfl); omega
  case jpV0 nnn => have := hindexed nnn rfl; omega
  case ret =>
    obtain ⟨k, hk, hpc⟩ := hret rfl
    have := hstack k (by omega)
    omega
  all_goals
    have := hother (by simp) (by simp)
    omega

/-- An instruction fetched within the invariant keeps it. -/
theorem exec_inv (hs : Inv s) (hf : s.pc.toNat + 1 < 4096) (h : exec i s = .next t) : Inv t := by
  have hpc := exec_pc_le hs hf h
  obtain ⟨hmem, _, hstack⟩ := hs
  refine ⟨?_, hpc, fun k hk => ?_⟩
  · obtain hm | ⟨a, bs, ha, hm⟩ := exec_mem h <;> rw [hm]
    · exact hmem
    · exact Memory.wf_writeBytes hmem ha
  · obtain ⟨hlive, he⟩ | he := exec_liveEntry h hk <;> rw [he]
    · exact hstack k hlive
    · omega

/-- A cycle that succeeds has executed an instruction it could fetch. -/
theorem cycle_next (h : cycle s = .next t) : s.pc.toNat + 1 < 4096 ∧ ∃ i, exec i s = .next t := by
  unfold cycle raise at h
  split at h
  next => cases h
  next w hw =>
    split at h
    next => cases h
    next i _ => exact ⟨((s.fetchWord_some).1 hw).1, i, h⟩

theorem cycle_inv (hs : Inv s) (h : cycle s = .next t) : Inv t := by
  obtain ⟨hf, i, hi⟩ := cycle_next h
  exact exec_inv hs hf hi

/-- Every host request keeps the invariant: `Load` writes inside memory, `Reset` sets it up, the others leave its parts. -/
theorem operate_inv {op : HostOp} {r : HostResult} (hs : Inv s) (h : operate op s = .next (t, r)) : Inv t := by
  cases op with
  | load bytes =>
    simp only [operate, State.loadOp] at h
    split at h
    next u hu =>
      obtain ⟨hlen, rfl⟩ : bytes.length ≤ 3584 ∧ s.memWrite 512 bytes = u := by simpa using hu
      obtain ⟨rfl, _⟩ := Prod.mk.inj (Host.Outcome.next.inj h)
      exact hs.memWrite (by omega)
    next => cases h
  | cycle rnd =>
    simp only [operate] at h
    split at h
    next u hu =>
      obtain ⟨rfl, _⟩ := Prod.mk.inj (Host.Outcome.next.inj h)
      have hs' : Inv { s with rndIn := some rnd } := hs
      exact (cycle_inv hs' hu).congr rfl rfl rfl rfl
    next => cases h
    next => cases h
  | reset =>
    obtain ⟨rfl, _⟩ := Prod.mk.inj (Host.Outcome.next.inj h)
    exact inv_reset.congr rfl rfl rfl rfl
  | tick | setKey | ackDraw | observe =>
    obtain ⟨rfl, _⟩ := Prod.mk.inj (Host.Outcome.next.inj h)
    exact hs.congr rfl rfl rfl rfl

/-- A request performed is the operation, with its result recorded (log 21). -/
theorem perform_next {op : HostOp} (h : perform op s = .next t) :
    ∃ u r, operate op s = .next (u, r) ∧ t = { u with outputs := u.outputs ++ [r] } := by
  unfold perform at h
  split at h
  next u r hu => exact ⟨u, r, hu, (Host.Outcome.next.inj h).symm⟩
  next => cases h
  next => cases h

theorem step_inv (hs : Inv s) (h : step s = .next t) : Inv t := by
  unfold step at h
  split at h
  next => exact cycle_inv hs h
  next op rest _ =>
    obtain ⟨u, r, hu, rfl⟩ := perform_next h
    have hs' : Inv { s with pending := rest } := hs
    exact (operate_inv hs' hu).congr rfl rfl rfl rfl

end

/-- Settles O48: the reset memory lists nothing and no stack entry is live. -/
theorem reachableBoundsHoldAtReset : Obligations.ReachableBoundsHoldAtReset := inv_reset

/-- Settles O49: each host request keeps the invariant, and a cycle keeps it by what an instruction writes to memory,
`pc` and the stack. -/
theorem everyStepKeepsTheReachableBounds : Obligations.EveryStepKeepsTheReachableBounds := by
  unfold Obligations.EveryStepKeepsTheReachableBounds
  exact fun s t => step_inv

/-- Settles O17: the frame `exec_get` for every part but registers and `pc`, which have rules of their own. -/
theorem eachElementHasOnlyItsWriters : Obligations.EachElementHasOnlyItsWriters := by
  unfold Obligations.EachElementHasOnlyItsWriters
  intro i s t h
  have frame := exec_sameExcept h
  obtain ⟨hrndIn, hpending, houtputs⟩ := frame .host host_not_mem_changes
  refine ⟨fun r hr => exec_getV h hr, exec_pc_eq h, ?_, fun hB hSt => frame .mem ?_, fun hLd hAdd hF => frame .I ?_,
    fun hcall => ⟨frame .stack ?_, fun hret => frame .sp ?_⟩, fun hDT => frame .delayTimer ?_,
    fun hST => frame .soundTimer ?_, exec_get h keypad_not_mem_changes,
    fun hcls hdrw => ⟨frame .fb ?_, frame .drawPending ?_⟩, fun hrnd => frame .draws ?_, hrndIn, hpending, houtputs⟩
  · rintro ⟨x, rfl⟩ hno
    rw [exec_pc h]
    simp [pcAfter, hno]
  · simpa [mem_mem_changes] using ⟨hB, hSt⟩
  · simpa [I_mem_changes] using ⟨hLd, hAdd, hF⟩
  · simpa [stack_mem_changes] using hcall
  · simpa [sp_mem_changes] using ⟨hret, hcall⟩
  · simpa [delayTimer_mem_changes] using hDT
  · simpa [soundTimer_mem_changes] using hST
  · simpa [fb_mem_changes] using ⟨hcls, hdrw⟩
  · simpa [drawPending_mem_changes] using ⟨hcls, hdrw⟩
  · simpa [draws_mem_changes] using hrnd

/-- Settles O18: the instructions with `V[0xF]` in their row of R27 are the six flag setters and those that name it. -/
theorem flagRegisterHasOnlyItsWriters : Obligations.FlagRegisterHasOnlyItsWriters := by
  unfold Obligations.FlagRegisterHasOnlyItsWriters
  intro i s t h
  constructor
  · rintro ⟨x, y, n, hi⟩
    obtain ⟨f, hf⟩ := exec_flagSetter h hi
    rw [hf]
    exact flagByte_eq_zero_or_one f
  · intro hne
    by_contra hno
    exact hne (exec_getV h (mt flagSetter_or_names_flag_of_writesV hno))

end Sys2Proof.Machine
end

section
/-! PROOFS. Two states that agree but for some parts: each update keeps the agreement, and an instruction that reads none of
those parts ends alike from both. Last, the reset state. -/

namespace Sys2Proof.Machine

/-! ### Two states that differ in parts -/

section
variable {e : Elem} {s s' : State}

/-! An update keeps two states in agreement on each part on which they agree. -/

theorem Elem.same.setV (h : e.same s s') (x : Reg) (v : Byte) : e.same (s.setV x v) (s'.setV x v) := by
  cases e with
  | V => intro r; simp [show s'.getV r = s.getV r from h r]
  | _ => exact h

theorem Elem.same.setVFlag (h : e.same s s') (x : Reg) (v : Byte) (f : Bool) :
    e.same (s.setVFlag x v f) (s'.setVFlag x v f) := (h.setV x v).setV flagReg (flagByte f)

theorem Elem.same.setI (h : e.same s s') (v : Word) : e.same (s.setI v) (s'.setI v) := by
  cases e with
  | I => rfl
  | _ => exact h

theorem Elem.same.setPc (h : e.same s s') (p : Word) : e.same (s.setPc p) (s'.setPc p) := by
  cases e with
  | pc => rfl
  | _ => exact h

theorem Elem.same.advance (h : e.same s s') : e.same s.advance s'.advance := by
  cases e with
  | pc => exact congrArg (· + 2) h
  | _ => exact h

theorem Elem.same.skip (h : e.same s s') : e.same s.skip s'.skip := by
  cases e with
  | pc => exact congrArg (· + 4) h
  | _ => exact h

/-- The write of a push, a pop or both, with the jump after it. -/
theorem Elem.same.setControl (h : e.same s s') (p : Word) (st : Vector Word 16) (n : Fin 17) :
    e.same { s with pc := p, stack := st, sp := n } { s' with pc := p, stack := st, sp := n } := by
  cases e with
  | pc | stack | sp => rfl
  | _ => exact h

theorem Elem.same.setDelay (h : e.same s s') (v : Byte) : e.same (s.setDelay v) (s'.setDelay v) := by
  cases e with
  | delayTimer => rfl
  | _ => exact h

theorem Elem.same.setSound (h : e.same s s') (v : Byte) : e.same (s.setSound v) (s'.setSound v) := by
  cases e with
  | soundTimer => rfl
  | _ => exact h

theorem Elem.same.setDrawPending (h : e.same s s') (b : Bool) :
    e.same (s.setDrawPending b) (s'.setDrawPending b) := by
  cases e with
  | drawPending => rfl
  | _ => exact h

theorem Elem.same.memWrite (h : e.same s s') (a : Nat) (bs : List Byte) :
    e.same (s.memWrite a bs) (s'.memWrite a bs) := by
  cases e with
  | mem => intro j; simp [show s'.memRead j = s.memRead j from h j]
  | _ => exact h

theorem Elem.same.clearCells (h : e.same s s') : e.same s.clearCells s'.clearCells := by
  cases e with
  | fb => intro k; simp
  | _ => exact h

theorem Elem.same.xorCells (h : e.same s s') (S : List Nat) : e.same (s.xorCells S) (s'.xorCells S) := by
  cases e with
  | fb =>
    intro k
    by_cases hk : k < 2048
    · rw [State.cell_xorCells _ _ _ hk, State.cell_xorCells _ _ _ hk, show s'.cell k = s.cell k from h k]
    · rw [State.cell_out _ _ (by omega), State.cell_out _ _ (by omega)]
  | _ => simpa [Elem.same] using h

theorem Elem.same.drawn (h : e.same s s') : e.same s.drawn s'.drawn := by
  cases e with
  | draws => exact congrArg (· + 1) h
  | _ => exact h

theorem Elem.same.loadRegs (h : e.same s s') (hmem : Elem.mem.same s s') (x : Reg) (a : Nat) :
    e.same (s.loadRegs x a) (s'.loadRegs x a) := by
  cases e with
  | V =>
    intro r
    simp [show s'.getV r = s.getV r from h r, show ∀ j, s'.memRead j = s.memRead j from hmem]
  | _ => simpa [Elem.same] using h

end

/-! ### Results that agree -/

/-- Two results agree but for the listed parts: the same error, or states that agree on every other part. -/
def SameResultExcept (c : List Elem) (r r' : Result) : Prop :=
  (∀ f, r = .fault f → r' = .fault f) ∧ ∀ t, r = .next t → ∃ t', r' = .next t' ∧ SameExcept c t t'

section
variable {c : List Elem} {s s' t t' : State}

theorem SameResultExcept.next (h : SameExcept c t t') : SameResultExcept c (.next t) (.next t') :=
  ⟨nofun, fun _ ht => ⟨t', rfl, Host.Outcome.next.inj ht ▸ h⟩⟩

theorem SameResultExcept.raise (f : Fault) : SameResultExcept c (raise f) (raise f) :=
  ⟨fun _ hf => hf, nofun⟩

theorem SameResultExcept.withMemCheck {r r' : Result} (a n : Nat) (h : SameResultExcept c r r') :
    SameResultExcept c (withMemCheck a n r) (withMemCheck a n r') := by
  unfold Machine.withMemCheck
  split
  · exact h
  · exact .raise _

/-- Updates that keep each agreement, after two states that agree, give results that agree. -/
theorem SameExcept.next (h : SameExcept c s s') (hu : ∀ e : Elem, e.same s s' → e.same t t') :
    SameResultExcept c (.next t) (.next t') :=
  .next fun e he => hu e (h e he)

theorem SameExcept.skipIf (h : SameExcept c s s') (b : Bool) : SameResultExcept c (skipIf b s) (skipIf b s') := by
  cases b
  · exact .next fun e he => (h e he).advance
  · exact .next fun e he => (h e he).skip

end

/-! ### What two states that agree have in common -/

section
variable {c : List Elem} {s s' : State}

theorem SameExcept.getV_eq (h : SameExcept c s s') (hV : .V ∉ c := by decide) (r : Reg) : s'.getV r = s.getV r :=
  h .V hV r

theorem SameExcept.addrI_eq (h : SameExcept c s s') (hI : .I ∉ c := by decide) : s'.addrI = s.addrI :=
  congrArg BitVec.toNat (h .I hI)

theorem SameExcept.memRead_eq (h : SameExcept c s s') (hmem : .mem ∉ c := by decide) (a : Nat) :
    s'.memRead a = s.memRead a := h .mem hmem a

theorem SameExcept.keyHeld_eq (h : SameExcept c s s') (hk : .keypad ∉ c := by decide) (k : Fin 16) :
    s'.keyHeld k = s.keyHeld k := h .keypad hk k

theorem SameExcept.firstRegs_eq (h : SameExcept c s s') (hV : .V ∉ c := by decide) (x : Reg) :
    s'.firstRegs x = s.firstRegs x := by
  have hVs : s'.V = s.V := Vector.ext fun r hr => h.getV_eq hV ⟨r, hr⟩
  rw [State.firstRegs, State.firstRegs, hVs]

theorem SameExcept.rndByte_eq (h : SameExcept c s s') (hh : .host ∉ c := by decide) (hd : .draws ∉ c := by decide) :
    s'.rndByte = s.rndByte := by
  obtain ⟨hrnd, _⟩ := h .host hh
  have hdraws : s'.draws = s.draws := h .draws hd
  rw [State.rndByte, State.rndByte, hrnd, hdraws]

theorem SameExcept.highestKey_eq (h : SameExcept c s s') (hk : .keypad ∉ c := by decide) :
    s'.highestKey = s.highestKey := by
  have below (n : Nat) : s'.highestKeyBelow n = s.highestKeyBelow n := by
    induction n with
    | zero => rfl
    | succ n ih => simp only [State.highestKeyBelow, h.keyHeld_eq hk, ih]
  exact below 16

theorem SameExcept.drawSet_eq (h : SameExcept c s s') (hmem : .mem ∉ c := by decide) (hV : .V ∉ c := by decide)
    (hI : .I ∉ c := by decide) (x y : Reg) (n : Nat) : s'.drawSet x y n = s.drawSet x y n := by
  have hread (a : Nat) : s'.mem.read a = s.mem.read a := h.memRead_eq hmem a
  simp only [State.drawSet, spriteCells, hread, h.addrI_eq hI, h.getV_eq hV]

theorem SameExcept.collision_eq (h : SameExcept c s s') (hfb : .fb ∉ c := by decide) (S : List Nat) :
    collision s' S = collision s S := by
  have hcell (k : Nat) : s'.cell k = s.cell k := h .fb hfb k
  simp only [collision, hcell]

end

/-! ### No instruction reads `sound_timer` or `draw_pending` (R19, R22) -/

section
variable {s s' : State} (h : SameExcept [.soundTimer, .drawPending] s s')
include h

theorem execRet_sameResult : SameResultExcept [.soundTimer, .drawPending] (execRet s) (execRet s') := by
  have hstack : s'.stack = s.stack := h .stack (by decide)
  have hsp : s'.sp = s.sp := h .sp (by decide)
  simp only [execRet, State.pop, hsp, hstack]
  by_cases h0 : s.sp.val = 0
  · simp only [dif_pos h0]
    exact .raise _
  · simp only [dif_neg h0]
    exact h.next fun _ he => he.setControl _ _ _

theorem execCall_sameResult (nnn : BitVec 12) :
    SameResultExcept [.soundTimer, .drawPending] (execCall nnn s) (execCall nnn s') := by
  have hstack : s'.stack = s.stack := h .stack (by decide)
  have hsp : s'.sp = s.sp := h .sp (by decide)
  have hpc : s'.pc = s.pc := h .pc (by decide)
  simp only [execCall, State.pushPc, hsp, hstack, hpc]
  by_cases h16 : s.sp.val < 16
  · simp only [dif_pos h16]
    exact h.next fun _ he => he.setControl _ _ _
  · simp only [dif_neg h16]
    exact .raise _

/-- An instruction does the same to the rest of the state whatever the two parts hold: it reads equal operands and writes
equal values. -/
theorem exec_sameResult (i : Instr) : SameResultExcept [.soundTimer, .drawPending] (exec i s) (exec i s') := by
  cases i
  case ret => exact execRet_sameResult h
  case call nnn => exact execCall_sameResult h nnn
  case cls => exact h.next fun _ he => (he.clearCells.setDrawPending true).advance
  case jp => exact h.next fun _ he => he.setPc _
  case jpV0 nnn =>
    simp only [exec, execJpV0, h.getV_eq]
    exact h.next fun _ he => he.setPc _
  case seImm | sneImm | seReg | sneReg =>
    simp only [exec, execSeImm, execSneImm, execSeReg, execSneReg, h.getV_eq]
    exact h.skipIf _
  case skp x | sknp x =>
    simp only [exec, execSkp, execSknp, h.getV_eq, h.keyHeld_eq]
    cases keyIndex (s.getV x)
    · exact .raise _
    · exact h.skipIf _
  case ldImm | addImm | ldReg | orReg | andReg | xorReg =>
    simp only [exec, execLdImm, execAddImm, execLdReg, execOr, execAnd, execXor, h.getV_eq]
    exact h.next fun _ he => (he.setV _ _).advance
  case addReg | subReg | shr | subnReg | shl =>
    simp only [exec, execAddReg, execSub, execShr, execSubn, execShl, h.getV_eq]
    exact h.next fun _ he => (he.setVFlag _ _ _).advance
  case rnd =>
    simp only [exec, execRnd, h.rndByte_eq]
    exact h.next fun _ he => (he.setV _ _).drawn.advance
  case ldI => exact h.next fun _ he => (he.setI _).advance
  case addI x =>
    have hI : s'.I = s.I := h .I (by decide)
    simp only [exec, execAddI, hI, h.getV_eq]
    exact h.next fun _ he => (he.setI _).advance
  case ldF x =>
    simp only [exec, execLdF, h.getV_eq]
    exact h.next fun _ he => (he.setI _).advance
  case ldVxDT x =>
    have hdelay : s'.delayTimer = s.delayTimer := h .delayTimer (by decide)
    simp only [exec, execLdVxDT, hdelay]
    exact h.next fun _ he => (he.setV _ _).advance
  case ldDTVx x =>
    simp only [exec, execLdDTVx, h.getV_eq]
    exact h.next fun _ he => (he.setDelay _).advance
  case ldSTVx x =>
    simp only [exec, execLdSTVx, h.getV_eq]
    exact h.next fun _ he => (he.setSound _).advance
  case ldVxK x =>
    simp only [exec, execLdVxK, h.highestKey_eq]
    cases s.highestKey
    · exact .next h
    · exact h.next fun _ he => (he.setV _ _).advance
  case ldB x =>
    simp only [exec, execLdB, h.addrI_eq, h.getV_eq]
    exact .withMemCheck _ _ (h.next fun _ he => (he.memWrite _ _).advance)
  case stRegs x =>
    simp only [exec, execStRegs, h.addrI_eq, h.firstRegs_eq]
    exact .withMemCheck _ _ (h.next fun _ he => (he.memWrite _ _).advance)
  case ldRegs x =>
    simp only [exec, execLdRegs, h.addrI_eq]
    exact .withMemCheck _ _ (h.next fun _ he => (he.loadRegs h.memRead_eq _ _).advance)
  case drw x y n =>
    simp only [exec, execDrw, h.addrI_eq, h.drawSet_eq, State.draw, h.collision_eq]
    refine .withMemCheck _ _ ?_
    split
    · exact .raise _
    · exact h.next fun _ he => (((he.xorCells _).setV _ _).setDrawPending _).advance

end

/-- Settles O21: two states that agree but for the two parts give an instruction the same operands, and each update keeps
the agreement. -/
theorem noInstructionReadsSoundTimerOrDirtyFlag : Obligations.NoInstructionReadsSoundTimerOrDirtyFlag := by
  unfold Obligations.NoInstructionReadsSoundTimerOrDirtyFlag
  exact fun i s s' h => exec_sameResult h i

/-! ### The reset state (R26) -/

theorem unlisted_of_lt {a : Nat} (h : a < Config.font.length) : Memory.unlisted a = Config.font[a] := by
  simp [Memory.unlisted, h]

theorem unlisted_of_le {a : Nat} (h : Config.font.length ≤ a) : Memory.unlisted a = 0 := by
  simp [Memory.unlisted, h]

/-- Settles O42: an unlisted byte reads as the font or 0, and every other element is a constant of `State.reset`. -/
theorem resetLeavesTheTableOfR26 : Obligations.ResetLeavesTheTableOfR26 := by
  unfold Obligations.ResetLeavesTheTableOfR26
  refine ⟨fun r => ?_, rfl, rfl, fun k => ?_, rfl, rfl, rfl, fun k => ?_, fun k => ?_, rfl, rfl,
    fun a ha => unlisted_of_lt ha, fun a ha _ => unlisted_of_le ha⟩
  · exact Vector.getElem_replicate r.isLt
  · exact Vector.getElem_replicate k.isLt
  · exact Vector.getElem_replicate k.isLt
  · simp [State.cell, State.reset]

end Sys2Proof.Machine
end

section
/-! PROOFS. Memory (spec/20_memory.md): what a fetch reads, that a store over the next instruction is what the next fetch
reads, and that the canonical form is determined by what its addresses read as. -/

namespace Sys2Proof.Machine

/-! ### The canonical form (R30; log 7) -/

/-- A read finds an entry, or the address reads as unlisted. -/
theorem Memory.read_cases (m : Memory) (a : Nat) : (a, m.read a) ∈ m ∨ m.read a = Memory.unlisted a := by
  induction m with
  | nil => exact .inr rfl
  | cons d m ih =>
    rw [Memory.read_cons]
    by_cases hd : d.1 = a
    · rw [if_pos hd, ← hd]
      exact .inl List.mem_cons_self
    · rw [if_neg hd]
      exact ih.imp_left (List.mem_cons_of_mem d)

/-- With one entry per address, each entry is the byte its address reads as. -/
theorem Memory.read_of_mem {m : Memory} (hm : m.Pairwise fun c d => c.1 < d.1) {c : Host.Cell} (hc : c ∈ m) :
    m.read c.1 = c.2 := by
  induction m with
  | nil => exact absurd hc List.not_mem_nil
  | cons d m ih =>
    obtain ⟨hd, hm⟩ := List.pairwise_cons.1 hm
    rw [Memory.read_cons]
    obtain rfl | hc := List.mem_cons.1 hc
    · exact if_pos rfl
    · rw [if_neg (hd c hc).ne]
      exact ih hm hc

/-- The entries of a canonical memory, told from its reads alone: the addresses that read other than unlisted. -/
theorem Memory.mem_iff_read {m : Memory} (hm : m.wf) (c : Host.Cell) :
    c ∈ m ↔ c.1 < 4096 ∧ m.read c.1 = c.2 ∧ c.2 ≠ Memory.unlisted c.1 := by
  obtain ⟨hsorted, hentry⟩ := hm
  constructor
  · intro hc
    obtain ⟨hlt, hne⟩ := hentry c hc
    exact ⟨hlt, Memory.read_of_mem hsorted hc, hne⟩
  · rintro ⟨-, hread, hne⟩
    obtain hc | hun := m.read_cases c.1
    · rwa [hread] at hc
    · exact absurd (hread.symm.trans hun) hne

/-- Settles O51: the reads tell the entries (`Memory.mem_iff_read`), and two lists sorted by address that hold the same
entries are equal. -/
theorem equalContentsAreEqualMemories : Obligations.EqualContentsAreEqualMemories := by
  unfold Obligations.EqualContentsAreEqualMemories
  intro m m' hm hm' hread
  have hmem (c : Host.Cell) : c ∈ m ↔ c ∈ m' := by
    rw [Memory.mem_iff_read hm, Memory.mem_iff_read hm']
    exact and_congr_right fun hc => by rw [hread c.1 hc]
  have : Std.Asymm fun c d : Host.Cell => c.1 < d.1 := ⟨fun _ _ => Nat.lt_asymm⟩
  exact hm.1.eq_of_mem_iff hm'.1 hmem

/-! ### Fetch (R33, R34) -/

section
variable {s t : State}

/-- The fetch with both bytes inside memory: the word as a number, the first byte the high one. -/
theorem State.fetchWord_of_lt (h : s.pc.toNat + 1 < 4096) : ∃ w, s.fetchWord = some w ∧
    w.toNat = 256 * (s.memRead s.pc.toNat).toNat + (s.memRead (s.pc.toNat + 1)).toNat :=
  ⟨_, s.fetchWord_some.2 ⟨h, rfl⟩, bytesWord_toNat _ _⟩

/-- A fetch that gives nothing ends the cycle before decode (R118). -/
theorem cycle_of_fetchWord_none (h : s.fetchWord = none) : cycle s = .fault .outOfBounds := by
  rw [cycle, h, raise]

/-! ### A store seen by the next fetch (R43, R89) -/

/-- After a `Fx55` the byte at `I + r` is register `r`, for each register stored. -/
theorem exec_stRegs_memRead {x r : Reg} (h : exec (.stRegs x) s = .next t) (hr : r ≤ x) :
    t.memRead (s.I.toNat + r.val) = s.getV r := by
  obtain ⟨_, rfl⟩ := execStRegs_next.1 h
  have hin : s.addrI ≤ s.addrI + r.val ∧ s.addrI + r.val < s.addrI + (s.firstRegs x).length := by
    rw [State.firstRegs_length]
    exact ⟨Nat.le_add_right _ _, Nat.add_lt_add_left (Nat.lt_succ_of_le hr) _⟩
  calc (s.memWrite s.addrI (s.firstRegs x)).memRead (s.addrI + r.val)
    _ = (s.firstRegs x).getD r.val 0 := by rw [State.memRead_memWrite, if_pos hin, Nat.add_sub_cancel_left]
    _ = s.getV r := s.firstRegs_getD x r hr

end

/-- Settles O7: `fetchWord` is none exactly from `pc + 1 ≥ 4096` on, and else the word of the two bytes at `pc`. -/
theorem fetchReadsBigEndianOrIsOutOfBounds : Obligations.FetchReadsBigEndianOrIsOutOfBounds := by
  unfold Obligations.FetchReadsBigEndianOrIsOutOfBounds
  refine ⟨fun s hpc => ?_, fun s => State.fetchWord_of_lt⟩
  have hnone := s.fetchWord_none.2 hpc
  exact ⟨hnone, cycle_of_fetchWord_none hnone⟩

/-- Settles O34: the store moves `pc` to `I`, where the fetch finds the first two registers stored. -/
theorem storeIsSeenByTheNextFetch : Obligations.StoreIsSeenByTheNextFetch := by
  unfold Obligations.StoreIsSeenByTheNextFetch
  intro s t x h hpc hI hx
  have htpc : t.pc.toNat = s.I.toNat := by
    have hpc2 : t.pc = s.pc + 2 := exec_pc h
    rw [hpc2]
    bv_omega
  have hhi : t.memRead t.pc.toNat = s.getV 0 := by
    rw [htpc]
    exact exec_stRegs_memRead (r := 0) h (Fin.zero_le x)
  have hlo : t.memRead (t.pc.toNat + 1) = s.getV 1 := by
    rw [htpc]
    exact exec_stRegs_memRead (r := 1) h hx
  obtain ⟨w, hw, hval⟩ := State.fetchWord_of_lt (s := t) (by omega)
  exact ⟨w, hw, by rw [hval, hhi, hlo]⟩

end Sys2Proof.Machine
end

section
/-! PROOFS. The opcode map on numbers (spec/30_encoding.md, R46 to R48): the number of a word put together from fields, the
number each field reads, what the mask and pattern of a row select, and that no two rows select one word. -/

namespace Sys2Proof

/-! ### Words and fields as numbers (R6, R46) -/

/-- A field placed above the bits in use adds its number times a power of two. -/
theorem toNat_fieldAt_or {n pos : Nat} (v : BitVec n) (w : Word) (hw : w.toNat < 2 ^ pos) (hn : n + pos ≤ 16) :
    (fieldAt v pos ||| w).toNat = v.toNat * 2 ^ pos + w.toNat := by
  have hlt : v.toNat < 2 ^ 16 := v.isLt.trans_le (Nat.pow_le_pow_right (by omega) (by omega))
  have hmul : v.toNat * 2 ^ pos < 2 ^ 16 := calc
    v.toNat * 2 ^ pos < 2 ^ n * 2 ^ pos := Nat.mul_lt_mul_of_pos_right v.isLt (Nat.two_pow_pos pos)
    _ = 2 ^ (n + pos) := (Nat.pow_add 2 n pos).symm
    _ ≤ 2 ^ 16 := Nat.pow_le_pow_right (by omega) hn
  rw [fieldAt, BitVec.toNat_or, BitVec.toNat_shiftLeft, BitVec.toNat_setWidth, Nat.mod_eq_of_lt hlt, Nat.shiftLeft_eq,
    Nat.mod_eq_of_lt hmul, ← Nat.shiftLeft_eq, Nat.shiftLeft_add_eq_or_of_lt hw]

theorem toNat_fieldAt_zero {n : Nat} (v : BitVec n) (hn : n ≤ 16) : (fieldAt v 0).toNat = v.toNat := by
  simpa using toNat_fieldAt_or (pos := 0) v 0 (by simp) hn

theorem toNat_wordNNN (c : BitVec 4) (nnn : BitVec 12) : (wordNNN c nnn).toNat = 4096 * c.toNat + nnn.toNat := by
  have hn := toNat_fieldAt_zero nnn (by omega)
  rw [wordNNN, toNat_fieldAt_or _ _ (by omega) (by omega)]
  omega

theorem toNat_wordXNN (c : BitVec 4) (x : Reg) (nn : Byte) :
    (wordXNN c x nn).toNat = 4096 * c.toNat + 256 * x.val + nn.toNat := by
  have hn := toNat_fieldAt_zero nn (by omega)
  have hx : (regBits x).toNat = x.val := rfl
  have hlow := toNat_fieldAt_or (pos := 8) (regBits x) (fieldAt nn 0) (by omega) (by omega)
  rw [wordXNN, BitVec.or_assoc, toNat_fieldAt_or _ _ (by omega) (by omega)]
  omega

theorem toNat_wordXYN (c : BitVec 4) (x y : Reg) (n : BitVec 4) :
    (wordXYN c x y n).toNat = 4096 * c.toNat + 256 * x.val + 16 * y.val + n.toNat := by
  have hn := toNat_fieldAt_zero n (by omega)
  have hx : (regBits x).toNat = x.val := rfl
  have hy : (regBits y).toNat = y.val := rfl
  have hlow := toNat_fieldAt_or (pos := 4) (regBits y) (fieldAt n 0) (by omega) (by omega)
  have hmid := toNat_fieldAt_or (pos := 8) (regBits x) (fieldAt (regBits y) 4 ||| fieldAt n 0) (by omega) (by omega)
  rw [wordXYN, BitVec.or_assoc, BitVec.or_assoc, toNat_fieldAt_or _ _ (by omega) (by omega)]
  omega

section
variable (w : Word)

theorem fieldX_val : (fieldX w).val = w.toNat / 256 % 16 := by
  simp [fieldX, Nat.shiftRight_eq_div_pow]

theorem fieldY_val : (fieldY w).val = w.toNat / 16 % 16 := by
  simp [fieldY, Nat.shiftRight_eq_div_pow]

theorem fieldN_eq : fieldN w = w.toNat % 16 := by
  simp [fieldN]

theorem fieldNN_toNat : (fieldNN w).toNat = w.toNat % 256 := by
  simp [fieldNN]

theorem fieldNNN_toNat : (fieldNNN w).toNat = w.toNat % 4096 := by
  simp [fieldNNN]

end

/-! ### What a row selects (R48) -/

/-- The masks of the opcode map: the class and the lowest `m` bits. -/
def classMask (m : Nat) : Word := 0xF000 ||| fieldAt (BitVec.allOnes m) 0

theorem and_classMask (w : Word) (m : Nat) :
    w &&& classMask m = fieldAt (fieldClass w) 12 ||| fieldAt (w.extractLsb' 0 m) 0 := by
  apply BitVec.eq_of_getLsbD_eq
  intro k hk
  simp only [classMask, fieldClass, BitVec.getLsbD_and, BitVec.getLsbD_or, getLsbD_fieldAt, BitVec.getLsbD_allOnes,
    BitVec.getLsbD_extractLsb']
  interval_cases k <;> simp [Bool.and_comm]

/-- A row whose mask keeps the class and the lowest `m` bits compares those with its pattern's. -/
theorem selects_iff {r : OpcodeRow} (m : Nat) (hm : m ≤ 12) (hr : r.mask = classMask m) (w : Word) :
    r.selects w = true ↔ w.toNat / 4096 = r.pattern.toNat / 4096 ∧ w.toNat % 2 ^ m = r.pattern.toNat % 4096 := by
  have hclass : (fieldClass w).toNat = w.toNat / 4096 := by
    rw [fieldClass, BitVec.extractLsb'_toNat, Nat.shiftRight_eq_div_pow]
    omega
  have hlow : (fieldAt (w.extractLsb' 0 m) 0).toNat = w.toNat % 2 ^ m := by
    rw [toNat_fieldAt_zero _ (by omega), BitVec.extractLsb'_toNat, Nat.shiftRight_zero]
  have hlt : w.toNat % 2 ^ m < 2 ^ 12 :=
    (Nat.mod_lt _ (Nat.two_pow_pos m)).trans_le (Nat.pow_le_pow_right (by omega) hm)
  rw [OpcodeRow.selects, beq_iff_eq, hr, and_classMask, ← BitVec.toNat_inj,
    toNat_fieldAt_or _ _ (by rwa [hlow]) (by omega), hclass, hlow]
  omega

section
variable (name : String) (p : Word) (build : Word → Instr) (w : Word)

theorem selects_word_iff : OpcodeRow.selects ⟨name, 0xFFFF, p, build⟩ w = true ↔ w = p := by
  have hw : w &&& 0xFFFF = w := BitVec.and_allOnes
  rw [OpcodeRow.selects, hw, beq_iff_eq]

theorem selects_class_iff : OpcodeRow.selects ⟨name, 0xF000, p, build⟩ w = true ↔
    w.toNat / 4096 = p.toNat / 4096 ∧ 0 = p.toNat % 4096 := by
  rw [selects_iff 0 (by omega) rfl, pow_zero, Nat.mod_one]

theorem selects_class_digit_iff : OpcodeRow.selects ⟨name, 0xF00F, p, build⟩ w = true ↔
    w.toNat / 4096 = p.toNat / 4096 ∧ w.toNat % 16 = p.toNat % 4096 :=
  selects_iff 4 (by omega) rfl w

theorem selects_class_byte_iff : OpcodeRow.selects ⟨name, 0xF0FF, p, build⟩ w = true ↔
    w.toNat / 4096 = p.toNat / 4096 ∧ w.toNat % 256 = p.toNat % 4096 :=
  selects_iff 8 (by omega) rfl w

end

/-- Rows whose patterns differ on a bit that both masks keep share no word. -/
theorem not_selects_both {r q : OpcodeRow} (h : r.pattern &&& q.mask ≠ q.pattern &&& r.mask) (w : Word) :
    ¬ (r.selects w = true ∧ q.selects w = true) := by
  simp only [OpcodeRow.selects, beq_iff_eq]
  rintro ⟨hr, hq⟩
  apply h
  rw [← hr, ← hq, BitVec.and_assoc, BitVec.and_assoc, BitVec.and_comm r.mask]

/-- Settles O5: any two rows differ on a bit that both masks keep. -/
theorem opcodeRowsArePairwiseDisjoint : Obligations.OpcodeRowsArePairwiseDisjoint := by
  unfold Obligations.OpcodeRowsArePairwiseDisjoint
  have hdiff : opcodeTable.Pairwise fun r q => r.pattern &&& q.mask ≠ q.pattern &&& r.mask := by decide
  exact ⟨rfl, hdiff.imp not_selects_both⟩

end Sys2Proof
end

section
/-! PROOFS. The decoder (R48 to R51): each row with every operand, a decoded word as an encoding, and the words that are no
instruction. -/

namespace Sys2Proof

/-! ### What the decoder answers -/

theorem decodeWord_eq_none_iff {w : Word} : decodeWord w = none ↔ ∀ r ∈ opcodeTable, ¬ r.selects w = true := by
  simp [decodeWord]

theorem decodeWord_eq_some {w : Word} {i : Instr} (h : decodeWord w = some i) :
    ∃ r ∈ opcodeTable, r.selects w = true ∧ r.build w = i := by
  obtain ⟨r, hr, hi⟩ := Option.map_eq_some_iff.1 h
  exact ⟨r, List.mem_of_find?_eq_some hr, List.find?_some (p := fun r => OpcodeRow.selects r w) hr, hi⟩

/-- At most one row selects a word. -/
theorem eq_of_selects {r q : OpcodeRow} {w : Word} (hr : r ∈ opcodeTable) (hq : q ∈ opcodeTable)
    (hrw : r.selects w = true) (hqw : q.selects w = true) : r = q := by
  by_contra hne
  have hsymm : Std.Symm fun r q : OpcodeRow => ∀ w, ¬ (r.selects w = true ∧ q.selects w = true) :=
    ⟨fun _ _ h w hw => h w hw.symm⟩
  obtain ⟨_, hdisjoint⟩ := opcodeRowsArePairwiseDisjoint
  exact hdisjoint.forall hr hq hne w ⟨hrw, hqw⟩

/-- Whichever row selects the word decodes it: the order of the rows does not matter. -/
theorem decodeWord_of_selects {r : OpcodeRow} {w : Word} (hr : r ∈ opcodeTable) (hw : r.selects w = true) :
    decodeWord w = some (r.build w) := by
  cases hd : decodeWord w with
  | none => exact absurd hw (decodeWord_eq_none_iff.1 hd r hr)
  | some i =>
    obtain ⟨q, hq, hqw, rfl⟩ := decodeWord_eq_some hd
    rw [eq_of_selects hr hq hw hqw]

/-! ### Every operand of every row (R50) -/

theorem row_mem (k : Nat) (hk : k < 34 := by decide) : opcodeTable[k]'hk ∈ opcodeTable := List.getElem_mem hk

section
variable {name : String} {p : Nat}

/-- A row without operands. -/
theorem decodeWord_fixed {i : Instr} (hr : ⟨name, 0xFFFF, BitVec.ofNat 16 p, fun _ => i⟩ ∈ opcodeTable) :
    decodeWord (BitVec.ofNat 16 p) = some i :=
  decodeWord_of_selects hr ((selects_word_iff ..).2 rfl)

/-- Format `NNN` (R46). -/
theorem decodeWord_nnn {f : BitVec 12 → Instr}
    (hr : ⟨name, 0xF000, BitVec.ofNat 16 p, fun w => f (fieldNNN w)⟩ ∈ opcodeTable) (nnn : BitVec 12)
    (hp : p < 65536 ∧ p % 4096 = 0 := by decide) : decodeWord (BitVec.ofNat 16 (p + nnn.toNat)) = some (f nnn) := by
  have hw : (BitVec.ofNat 16 (p + nnn.toNat)).toNat = p + nnn.toNat := Nat.mod_eq_of_lt (by omega)
  generalize BitVec.ofNat 16 (p + nnn.toNat) = w at hw ⊢
  have hnnn : fieldNNN w = nnn := BitVec.eq_of_toNat_eq (by rw [fieldNNN_toNat]; omega)
  have hs := decodeWord_of_selects hr (w := w) (by rw [selects_class_iff, BitVec.toNat_ofNat]; omega)
  simpa only [hnnn] using hs

/-- Format `XNN` (R46). -/
theorem decodeWord_xnn {f : Reg → Byte → Instr}
    (hr : ⟨name, 0xF000, BitVec.ofNat 16 p, fun w => f (fieldX w) (fieldNN w)⟩ ∈ opcodeTable) (x : Reg) (nn : Byte)
    (hp : p < 65536 ∧ p % 4096 = 0 := by decide) :
    decodeWord (BitVec.ofNat 16 (p + 256 * x.val + nn.toNat)) = some (f x nn) := by
  have hw : (BitVec.ofNat 16 (p + 256 * x.val + nn.toNat)).toNat = p + 256 * x.val + nn.toNat :=
    Nat.mod_eq_of_lt (by omega)
  generalize BitVec.ofNat 16 (p + 256 * x.val + nn.toNat) = w at hw ⊢
  have hx : fieldX w = x := Fin.ext (by rw [fieldX_val]; omega)
  have hnn : fieldNN w = nn := BitVec.eq_of_toNat_eq (by rw [fieldNN_toNat]; omega)
  have hs := decodeWord_of_selects hr (w := w) (by rw [selects_class_iff, BitVec.toNat_ofNat]; omega)
  simpa only [hx, hnn] using hs

/-- Format `XSS` (R46). -/
theorem decodeWord_xss {f : Reg → Instr}
    (hr : ⟨name, 0xF0FF, BitVec.ofNat 16 p, fun w => f (fieldX w)⟩ ∈ opcodeTable) (x : Reg)
    (hp : p < 65536 ∧ p % 4096 < 256 := by decide) :
    decodeWord (BitVec.ofNat 16 (p + 256 * x.val)) = some (f x) := by
  have hw : (BitVec.ofNat 16 (p + 256 * x.val)).toNat = p + 256 * x.val := Nat.mod_eq_of_lt (by omega)
  generalize BitVec.ofNat 16 (p + 256 * x.val) = w at hw ⊢
  have hx : fieldX w = x := Fin.ext (by rw [fieldX_val]; omega)
  have hs := decodeWord_of_selects hr (w := w) (by rw [selects_class_byte_iff, BitVec.toNat_ofNat]; omega)
  simpa only [hx] using hs

/-- Format `XYS` (R46). -/
theorem decodeWord_xys {f : Reg → Reg → Instr}
    (hr : ⟨name, 0xF00F, BitVec.ofNat 16 p, fun w => f (fieldX w) (fieldY w)⟩ ∈ opcodeTable) (x y : Reg)
    (hp : p < 65536 ∧ p % 4096 < 16 := by decide) :
    decodeWord (BitVec.ofNat 16 (p + 256 * x.val + 16 * y.val)) = some (f x y) := by
  have hw : (BitVec.ofNat 16 (p + 256 * x.val + 16 * y.val)).toNat = p + 256 * x.val + 16 * y.val :=
    Nat.mod_eq_of_lt (by omega)
  generalize BitVec.ofNat 16 (p + 256 * x.val + 16 * y.val) = w at hw ⊢
  have hx : fieldX w = x := Fin.ext (by rw [fieldX_val]; omega)
  have hy : fieldY w = y := Fin.ext (by rw [fieldY_val]; omega)
  have hs := decodeWord_of_selects hr (w := w) (by rw [selects_class_digit_iff, BitVec.toNat_ofNat]; omega)
  simpa only [hx, hy] using hs

/-- Format `XYN` (R46). -/
theorem decodeWord_xyn {f : Reg → Reg → Nat → Instr}
    (hr : ⟨name, 0xF000, BitVec.ofNat 16 p, fun w => f (fieldX w) (fieldY w) (fieldN w)⟩ ∈ opcodeTable) (x y : Reg)
    {n : Nat} (hn : n < 16) (hp : p < 65536 ∧ p % 4096 = 0 := by decide) :
    decodeWord (BitVec.ofNat 16 (p + 256 * x.val + 16 * y.val + n)) = some (f x y n) := by
  have hw : (BitVec.ofNat 16 (p + 256 * x.val + 16 * y.val + n)).toNat = p + 256 * x.val + 16 * y.val + n :=
    Nat.mod_eq_of_lt (by omega)
  generalize BitVec.ofNat 16 (p + 256 * x.val + 16 * y.val + n) = w at hw ⊢
  have hx : fieldX w = x := Fin.ext (by rw [fieldX_val]; omega)
  have hy : fieldY w = y := Fin.ext (by rw [fieldY_val]; omega)
  have hnw : fieldN w = n := by rw [fieldN_eq]; omega
  have hs := decodeWord_of_selects hr (w := w) (by rw [selects_class_iff, BitVec.toNat_ofNat]; omega)
  simpa only [hx, hy, hnw] using hs

end

/-- Settles O2: each clause is a row of the table, at its position, with the decoding of its format. -/
theorem everyRowDecodesItsOperands : Obligations.EveryRowDecodesItsOperands := by
  unfold Obligations.EveryRowDecodesItsOperands
  refine ⟨⟨decodeWord_fixed (row_mem 0), decodeWord_fixed (row_mem 1)⟩, fun nnn => ?_, fun x nn => ?_, fun x y => ?_,
    fun x y n hn => decodeWord_xyn (row_mem 22) x y hn, fun x => ?_⟩
  · exact ⟨decodeWord_nnn (row_mem 2) nnn, decodeWord_nnn (row_mem 3) nnn, decodeWord_nnn (row_mem 19) nnn,
      decodeWord_nnn (row_mem 20) nnn⟩
  · exact ⟨decodeWord_xnn (row_mem 4) x nn, decodeWord_xnn (row_mem 5) x nn, decodeWord_xnn (row_mem 7) x nn,
      decodeWord_xnn (row_mem 8) x nn, decodeWord_xnn (row_mem 21) x nn⟩
  · exact ⟨decodeWord_xys (row_mem 6) x y, decodeWord_xys (row_mem 9) x y, decodeWord_xys (row_mem 10) x y,
      decodeWord_xys (row_mem 11) x y, decodeWord_xys (row_mem 12) x y, decodeWord_xys (row_mem 13) x y,
      decodeWord_xys (row_mem 14) x y, decodeWord_xys (row_mem 15) x y, decodeWord_xys (row_mem 16) x y,
      decodeWord_xys (row_mem 17) x y, decodeWord_xys (row_mem 18) x y⟩
  · exact ⟨decodeWord_xss (row_mem 23) x, decodeWord_xss (row_mem 24) x, decodeWord_xss (row_mem 25) x,
      decodeWord_xss (row_mem 26) x, decodeWord_xss (row_mem 27) x, decodeWord_xss (row_mem 28) x,
      decodeWord_xss (row_mem 29) x, decodeWord_xss (row_mem 30) x, decodeWord_xss (row_mem 31) x,
      decodeWord_xss (row_mem 32) x, decodeWord_xss (row_mem 33) x⟩

/-! ### A word that decodes is the encoding (R48, R50) -/

/-- Every word of the row is the encoding of the well-formed instruction the row reads from it. -/
def OpcodeRow.Reencodes (r : OpcodeRow) : Prop :=
  ∀ w : Word, r.selects w = true → (r.build w).wf = true ∧ encode (r.build w) = w

section
variable {name : String} {p : Word} {c : BitVec 4}

theorem reencodes_fixed {i : Instr} (h : i.wf = true ∧ encode i = p) :
    OpcodeRow.Reencodes ⟨name, 0xFFFF, p, fun _ => i⟩ := by
  intro w hw
  rw [selects_word_iff] at hw
  rwa [hw]

theorem reencodes_nnn {f : BitVec 12 → Instr} (h : ∀ nnn, (f nnn).wf = true ∧ encode (f nnn) = wordNNN c nnn)
    (hp : p.toNat = 4096 * c.toNat) : OpcodeRow.Reencodes ⟨name, 0xF000, p, fun w => f (fieldNNN w)⟩ := by
  intro w hw
  rw [selects_class_iff] at hw
  obtain ⟨hwf, henc⟩ := h (fieldNNN w)
  refine ⟨hwf, henc.trans (BitVec.eq_of_toNat_eq ?_)⟩
  rw [toNat_wordNNN, fieldNNN_toNat]
  omega

theorem reencodes_xnn {f : Reg → Byte → Instr} (h : ∀ x nn, (f x nn).wf = true ∧ encode (f x nn) = wordXNN c x nn)
    (hp : p.toNat = 4096 * c.toNat) : OpcodeRow.Reencodes ⟨name, 0xF000, p, fun w => f (fieldX w) (fieldNN w)⟩ := by
  intro w hw
  rw [selects_class_iff] at hw
  obtain ⟨hwf, henc⟩ := h (fieldX w) (fieldNN w)
  refine ⟨hwf, henc.trans (BitVec.eq_of_toNat_eq ?_)⟩
  rw [toNat_wordXNN, fieldX_val, fieldNN_toNat]
  omega

theorem reencodes_xss {f : Reg → Instr} {nn : Byte} (h : ∀ x, (f x).wf = true ∧ encode (f x) = wordXNN c x nn)
    (hp : p.toNat = 4096 * c.toNat + nn.toNat) : OpcodeRow.Reencodes ⟨name, 0xF0FF, p, fun w => f (fieldX w)⟩ := by
  intro w hw
  rw [selects_class_byte_iff] at hw
  obtain ⟨hwf, henc⟩ := h (fieldX w)
  refine ⟨hwf, henc.trans (BitVec.eq_of_toNat_eq ?_)⟩
  rw [toNat_wordXNN, fieldX_val]
  omega

theorem reencodes_xys {f : Reg → Reg → Instr} {low : BitVec 4}
    (h : ∀ x y, (f x y).wf = true ∧ encode (f x y) = wordXYN c x y low) (hp : p.toNat = 4096 * c.toNat + low.toNat) :
    OpcodeRow.Reencodes ⟨name, 0xF00F, p, fun w => f (fieldX w) (fieldY w)⟩ := by
  intro w hw
  rw [selects_class_digit_iff] at hw
  obtain ⟨hwf, henc⟩ := h (fieldX w) (fieldY w)
  refine ⟨hwf, henc.trans (BitVec.eq_of_toNat_eq ?_)⟩
  rw [toNat_wordXYN, fieldX_val, fieldY_val]
  omega

theorem reencodes_xyn {f : Reg → Reg → Nat → Instr}
    (h : ∀ x y, ∀ n < 16, (f x y n).wf = true ∧ encode (f x y n) = wordXYN c x y (BitVec.ofNat 4 n))
    (hp : p.toNat = 4096 * c.toNat) :
    OpcodeRow.Reencodes ⟨name, 0xF000, p, fun w => f (fieldX w) (fieldY w) (fieldN w)⟩ := by
  intro w hw
  rw [selects_class_iff] at hw
  obtain ⟨hwf, henc⟩ := h (fieldX w) (fieldY w) (fieldN w) (by rw [fieldN_eq]; omega)
  refine ⟨hwf, henc.trans (BitVec.eq_of_toNat_eq ?_)⟩
  rw [toNat_wordXYN, fieldX_val, fieldY_val, BitVec.toNat_ofNat, fieldN_eq]
  omega

end

/-! The encoder places the operands of each row as the row's format does. -/

theorem opcodeRowsLow_reencode : ∀ r ∈ opcodeRowsLow, r.Reencodes := by
  simp only [opcodeRowsLow, List.forall_mem_cons]
  exact ⟨reencodes_fixed ⟨rfl, rfl⟩, reencodes_fixed ⟨rfl, rfl⟩, reencodes_nnn (fun _ => ⟨rfl, rfl⟩) rfl,
    reencodes_nnn (fun _ => ⟨rfl, rfl⟩) rfl, reencodes_xnn (fun _ _ => ⟨rfl, rfl⟩) rfl,
    reencodes_xnn (fun _ _ => ⟨rfl, rfl⟩) rfl, reencodes_xys (fun _ _ => ⟨rfl, rfl⟩) rfl,
    reencodes_xnn (fun _ _ => ⟨rfl, rfl⟩) rfl, reencodes_xnn (fun _ _ => ⟨rfl, rfl⟩) rfl, nofun⟩

theorem opcodeRowsAlu_reencode : ∀ r ∈ opcodeRowsAlu, r.Reencodes := by
  simp only [opcodeRowsAlu, List.forall_mem_cons]
  refine ⟨?_, ?_, ?_, ?_, ?_, ?_, ?_, ?_, ?_, nofun⟩
  all_goals exact reencodes_xys (fun _ _ => ⟨rfl, rfl⟩) rfl

theorem opcodeRowsMid_reencode : ∀ r ∈ opcodeRowsMid, r.Reencodes := by
  simp only [opcodeRowsMid, List.forall_mem_cons]
  exact ⟨reencodes_xys (fun _ _ => ⟨rfl, rfl⟩) rfl, reencodes_nnn (fun _ => ⟨rfl, rfl⟩) rfl,
    reencodes_nnn (fun _ => ⟨rfl, rfl⟩) rfl, reencodes_xnn (fun _ _ => ⟨rfl, rfl⟩) rfl,
    reencodes_xyn (fun _ _ _ hn => ⟨decide_eq_true hn, rfl⟩) rfl, nofun⟩

theorem opcodeRowsHigh_reencode : ∀ r ∈ opcodeRowsHigh, r.Reencodes := by
  simp only [opcodeRowsHigh, List.forall_mem_cons]
  refine ⟨?_, ?_, ?_, ?_, ?_, ?_, ?_, ?_, ?_, ?_, ?_, nofun⟩
  all_goals exact reencodes_xss (fun _ => ⟨rfl, rfl⟩) rfl

theorem opcodeTable_reencodes : ∀ r ∈ opcodeTable, r.Reencodes := by
  simp only [opcodeTable, List.forall_mem_append]
  exact ⟨⟨⟨opcodeRowsLow_reencode, opcodeRowsAlu_reencode⟩, opcodeRowsMid_reencode⟩, opcodeRowsHigh_reencode⟩

/-- Settles O4: the instruction comes from a row that selects the word, and every row's words are its encodings. -/
theorem encodeOfDecodeIsTheWord : Obligations.EncodeOfDecodeIsTheWord := by
  unfold Obligations.EncodeOfDecodeIsTheWord
  intro w i h
  obtain ⟨r, hr, hw, rfl⟩ := decodeWord_eq_some h
  exact opcodeTable_reencodes r hr w hw

/-! ### Words that are no instruction (R51) -/

/-- Settles O6: in each of the 16 classes, the rows of the class leave the words of its line in R51. -/
theorem decoderRejectsExactlyTheUnknownWords : Obligations.DecoderRejectsExactlyTheUnknownWords := by
  unfold Obligations.DecoderRejectsExactlyTheUnknownWords
  intro w
  have hclass : w.toNat / 4096 < 16 := by omega
  have hE0 (h : w = 0x00E0) : w.toNat / 4096 = 0 := by rw [h]; rfl
  have hEE (h : w = 0x00EE) : w.toNat / 4096 = 0 := by rw [h]; rfl
  have hdigit : w.toNat % 16 < 16 := by omega
  rw [decodeWord_eq_none_iff, Machine.unknownWord]
  simp only [opcodeTable, opcodeRowsLow, opcodeRowsAlu, opcodeRowsMid, opcodeRowsHigh, List.forall_mem_append,
    List.forall_mem_cons, selects_word_iff, selects_class_iff, selects_class_digit_iff, selects_class_byte_iff]
  simp only [BitVec.ofNat_eq_ofNat, BitVec.reduceToNat, Nat.reduceDiv, Nat.reduceMod] at hE0 hEE ⊢
  generalize w.toNat / 4096 = c at hclass hE0 hEE ⊢
  by_cases h8 : c = 8
  · -- R51 lists the unknown digits of class 8, the table the known ones.
    subst h8
    generalize w.toNat % 16 = d at hdigit ⊢
    interval_cases d <;> simp_all
  · interval_cases c <;> simp_all

/-! ### Sample inputs (R45, R50) -/

/-- Settles O1: the decoder computes its answer on each of the ten inputs. -/
theorem sampleWordsDecode : Obligations.SampleWordsDecode := by
  unfold Obligations.SampleWordsDecode
  decide

end Sys2Proof
end

section
/-! PROOFS. No refusal (R50, R110): from an instruction to a cycle, a host request and a step. -/

namespace Sys2Proof.Machine

section
variable (s : State) (q : Refusal)

/-- Every arm ends in a next state or in `raise`; the arms that can fail are split on what they test. -/
theorem exec_ne_refused (i : Instr) : exec i s ≠ .refused q := by
  cases i
  case ret =>
    rcases h : s.pop with _ | ⟨a, t⟩ <;> simp [exec, execRet, raise, h]
  case call =>
    cases h : s.pushPc <;> simp [exec, execCall, raise, h]
  case skp x | sknp x =>
    cases h : keyIndex (s.getV x) <;> simp [exec, execSkp, execSknp, raise, skipIf, h]
  case ldVxK =>
    cases h : s.highestKey <;> simp [exec, execLdVxK, h]
  case ldB | stRegs | ldRegs =>
    exact fun h => nomatch (withMemCheck_refused.1 h).2
  case drw x y n =>
    obtain ⟨_, _, h⟩ | ⟨_, h⟩ := execDrw_cases s x y n <;> simp [exec, h]
  all_goals nofun

theorem cycle_ne_refused : cycle s ≠ .refused q := by
  unfold cycle raise
  split
  next => nofun
  next w _ =>
    split
    next => nofun
    next i _ => exact exec_ne_refused s q i

theorem operate_ne_refused (op : HostOp) : operate op s ≠ .refused q := by
  cases op with
  | load bytes =>
    cases h : s.loadOp bytes <;> simp [operate, h]
  | cycle rnd =>
    rcases h : cycle { s with rndIn := some rnd } with t | f | q'
    · simp [operate, h]
    · simp [operate, h]
    · exact absurd h (cycle_ne_refused _ q')
  | _ => nofun

theorem perform_ne_refused (op : HostOp) : perform op s ≠ .refused q := by
  unfold perform
  split
  next => nofun
  next => nofun
  next q' h => exact absurd h (operate_ne_refused s q' op)

theorem step_ne_refused : step s ≠ .refused q := by
  unfold step
  split
  next => exact cycle_ne_refused s q
  next op rest _ => exact perform_ne_refused _ q op

end

/-- Settles O15: an execute stage answers with a next state or an error, and a step answers as a cycle or a request does. -/
theorem nothingIsRefused : Obligations.NothingIsRefused := by
  unfold Obligations.NothingIsRefused
  exact ⟨fun i s q => exec_ne_refused s q i, step_ne_refused⟩

end Sys2Proof.Machine
end

section
/-! PROOFS. Control flow (spec/40_control_flow.md): skips and jumps write `pc` alone, and a call and a return move the stack
as R61 and R63 say. -/

namespace Sys2Proof.Machine

/-- Settles O19: `exec_pc`, by the instruction. -/
theorem pcMovesAsTheTableSays : Obligations.PcMovesAsTheTableSays := by
  unfold Obligations.PcMovesAsTheTableSays
  exact fun i s t => exec_pc

section
variable {s t : State}

/-! ### Frames -/

theorem SameExcept.mono {c d : List Elem} (h : SameExcept c s t) (hcd : c ⊆ d) : SameExcept d s t :=
  fun e he => h e (mt (@hcd e) he)

theorem movesPc_setPc (s : State) (p : Word) : MovesPc p s (s.setPc p) :=
  ⟨rfl, fun _ he => Elem.same_of_get_eq _ _ (get_setPc s p (List.ne_of_not_mem_cons he))⟩

/-- A skip whose test decides `P` goes 4 or 2 past its own address, and writes nothing else. -/
theorem skipIf_movesPc (s : State) {c : Bool} {P : Prop} [Decidable P] (hc : c = true ↔ P) :
    ∃ t, skipIf c s = .next t ∧ MovesPc (s.pc + if P then 4 else 2) s t := by
  refine ⟨_, skipIf_eq s c, ?_⟩
  simpa only [hc, apply_ite (s.pc + ·)] using movesPc_setPc s (if c then s.pc + 4 else s.pc + 2)

/-! ### When a return and a call fail (R61, R63) -/

theorem execRet_fault {f : Fault} : execRet s = .fault f ↔ s.sp = 0 ∧ f = .stackUnderflow := by
  rw [← State.pop_none]
  unfold execRet raise
  rcases s.pop with _ | ⟨a, u⟩ <;> simp [eq_comm]

theorem execCall_fault {nnn : BitVec 12} {f : Fault} :
    execCall nnn s = .fault f ↔ s.sp = 16 ∧ f = .stackOverflow := by
  rw [← State.pushPc_none]
  unfold execCall raise
  rcases s.pushPc with _ | u <;> simp [eq_comm]

/-! ### When a return and a call succeed (R61, R63) -/

theorem execRet_of_sp_ne_zero (h : s.sp.val ≠ 0) :
    ∃ t, execRet s = .next t ∧ t.pc = s.stack[s.sp.val - 1] + 2 ∧ t.sp.val = s.sp.val - 1 :=
  ⟨_, execRet_next.2 ⟨_, _, (s.pop_some).2 ⟨h, rfl, rfl⟩, rfl⟩, rfl, rfl⟩

theorem execCall_of_sp_lt (nnn : BitVec 12) (h : s.sp.val < 16) :
    ∃ t, execCall nnn s = .next t ∧ t.sp.val = s.sp.val + 1 ∧ t.stack = s.stack.set s.sp.val s.pc :=
  ⟨_, execCall_next.2 ⟨_, (s.pushPc_some).2 ⟨h, rfl⟩, rfl⟩, rfl, rfl⟩

end

/-- Settles O25: each is a skip whose test, on bytes, decides the condition. -/
theorem compareAndSkipMovesPcOnly : Obligations.CompareAndSkipMovesPcOnly := by
  unfold Obligations.CompareAndSkipMovesPcOnly
  exact fun s x y nn => ⟨skipIf_movesPc s beq_iff_eq, skipIf_movesPc s bne_iff_ne, skipIf_movesPc s beq_iff_eq,
    skipIf_movesPc s bne_iff_ne⟩

/-- Settles O26: a jump cannot fail, and its `pc` as a number is that of R60's table. -/
theorem jumpsSetPcUnchecked : Obligations.JumpsSetPcUnchecked := by
  unfold Obligations.JumpsSetPcUnchecked
  intro s nnn
  have hjp : exec (.jp nnn) s = .next (s.setPc (addr16 nnn)) := rfl
  have hjpV0 : exec (.jpV0 nnn) s = .next (s.setPc (addr16 nnn + byte16 (s.getV 0))) := rfl
  refine ⟨⟨_, hjp, ?_, exec_sameExcept hjp⟩, ⟨_, hjpV0, ?_, exec_sameExcept hjpV0⟩⟩
  · rw [exec_pc hjp]
    exact toNat_pcAfter_jump (.inl rfl)
  · rw [exec_pc hjpV0]
    exact toNat_pcAfter_jpV0 nnn

/-- Settles O28: a return succeeds exactly when a pop does. -/
theorem returnPopsAndGoesTwoPast : Obligations.ReturnPopsAndGoesTwoPast := by
  unfold Obligations.ReturnPopsAndGoesTwoPast
  intro s
  refine ⟨fun h => ?_, fun h => execRet_fault.2 ⟨h, rfl⟩⟩
  obtain ⟨t, ht, hpc, hsp⟩ := execRet_of_sp_ne_zero h
  have frame : SameExcept [.sp, .pc] s t := exec_sameExcept (i := .ret) ht
  refine ⟨t, ht, ?_, hsp, frame.mono (by simp)⟩
  rw [hpc]
  exact BitVec.toNat_add _ _

/-- Settles O27: the slot a call writes is the one the return after it pops. -/
theorem callPushesItsOwnAddressAndReturnComesBack : Obligations.CallPushesItsOwnAddressAndReturnComesBack := by
  unfold Obligations.CallPushesItsOwnAddressAndReturnComesBack
  intro s nnn
  refine ⟨fun h => ?_, fun h => execCall_fault.2 ⟨h, rfl⟩⟩
  obtain ⟨t, ht, hsp, hstack⟩ := execCall_of_sp_lt nnn h
  have hcall : exec (.call nnn) s = .next t := ht
  have frame : SameExcept [.stack, .sp, .pc] s t := exec_sameExcept hcall
  have slot (k : Fin 16) : t.stack[k.val] = if k.val = s.sp.val then s.pc else s.stack[k.val] := by
    simp [hstack, Vector.getElem_set, eq_comm]
  obtain ⟨u, hu, hupc, husp⟩ := execRet_of_sp_ne_zero (s := t) (by omega)
  refine ⟨t, hcall, ?_, hsp, slot, frame.mono (by simp), u, hu, ?_, Fin.ext (by omega)⟩
  · rw [exec_pc hcall]
    exact toNat_pcAfter_jump (.inr rfl)
  · simp [hupc, hsp, hstack]

end Sys2Proof.Machine
end

section
/-! PROOFS. The register file and the ALU (spec/41_alu.md): what a result write and a flag write leave behind, the flags as
conditions on the operands, and the random byte, which `Cxnn` alone reads. -/

namespace Sys2Proof.Machine

/-! ### Frames of the register writes (R70, R83) -/

theorem writesReg_setV_advance (s : State) (x : Reg) (v : Byte) : WritesReg x v s (s.setV x v).advance := by
  refine ⟨by simp, fun r hr => ?_, rfl, fun e he => Elem.same_of_get_eq _ _ ?_⟩
  · have hrx : r ≠ x := by simpa using hr
    simp [hrx]
  · obtain ⟨hV, hpc⟩ : e ≠ .V ∧ e ≠ .pc := by simpa using he
    simp [hV, hpc]

/-- With `x = 0xF` the flag is what remains, so a result is claimed for the other destinations only (R83). -/
theorem writesRegAndFlag_setVFlag_advance (s : State) (x : Reg) {v : Byte} {r : Nat} {b : Bool} {f : Prop}
    (hr : v.toNat = r) (hf : b = true ↔ f) : WritesRegAndFlag x r f s (s.setVFlag x v b).advance := by
  refine ⟨fun hx => ?_, fun h => ?_, fun h => ?_, fun q hq => ?_, rfl, fun e he => Elem.same_of_get_eq _ _ ?_⟩
  · simp [hx, hr]
  · simp [hf.2 h, flagByte]
  · simp [mt hf.1 h, flagByte]
  · obtain ⟨hqx, hqf⟩ : q ≠ x ∧ q ≠ 15 := by simpa using hq
    simp [hqx, hqf]
  · obtain ⟨hV, hpc⟩ : e ≠ .V ∧ e ≠ .pc := by simpa using he
    simp [hV, hpc]

/-! ### The flags as conditions on the operands (R70, R77 to R81) -/

theorem carry_iff {a b : Byte} : carry a b = true ↔ 255 < a.toNat + b.toNat := by
  simp [carry]

theorem notBorrow_iff {a b : Byte} : notBorrow a b = true ↔ b.toNat ≤ a.toNat := by
  simp [notBorrow]

theorem lowBit_iff {a : Byte} : lowBit a = true ↔ a.toNat % 2 = 1 := by
  simp [lowBit, BitVec.getLsbD, Nat.testBit_zero]

theorem highBit_iff {a : Byte} : highBit a = true ↔ 128 ≤ a.toNat := by
  have := a.isLt
  simp only [highBit, BitVec.getLsbD, Nat.testBit_eq_decide_div_mod_eq, decide_eq_true_eq]
  omega

/-! ### Results as numbers (R77 to R81) -/

theorem toNat_sub_eq_mod (a b : Byte) : (a - b).toNat = (a.toNat + 256 - b.toNat) % 256 := by
  have := b.isLt
  rw [BitVec.toNat_sub]
  omega

theorem toNat_shiftLeft_one (a : Byte) : (a <<< 1).toNat = 2 * a.toNat % 256 := by
  rw [BitVec.toNat_shiftLeft, Nat.shiftLeft_eq, Nat.mul_comm]

/-! ### One register, or one register and the flag (R71 to R81) -/

/-- Settles O22: each is a write of `V[x]` and the advance of `pc`. -/
theorem loadsLogicAndAddImmediateWriteOneRegister : Obligations.LoadsLogicAndAddImmediateWriteOneRegister := by
  unfold Obligations.LoadsLogicAndAddImmediateWriteOneRegister
  intro s x y nn
  have hadd : BitVec.ofNat 8 (((s.getV x).toNat + nn.toNat) % 256) = s.getV x + nn :=
    BitVec.eq_of_toNat_eq (by simp)
  rw [hadd]
  have hwrites := writesReg_setV_advance s x
  exact ⟨⟨_, rfl, hwrites _⟩, ⟨_, rfl, hwrites _⟩, ⟨_, rfl, hwrites _⟩, ⟨_, rfl, hwrites _⟩, ⟨_, rfl, hwrites _⟩,
    ⟨_, rfl, hwrites _⟩⟩

/-- Settles O23: each is a write of `V[x]` and then of the flag, with the result and the flag of the old operands. -/
theorem flagAluWritesResultThenFlag : Obligations.FlagAluWritesResultThenFlag := by
  unfold Obligations.FlagAluWritesResultThenFlag
  intro s x y a b
  refine ⟨⟨_, rfl, ?add⟩, ⟨_, rfl, ?sub⟩, ⟨_, rfl, ?subn⟩, ⟨_, rfl, ?shr⟩, ⟨_, rfl, ?shl⟩⟩
  case add => exact writesRegAndFlag_setVFlag_advance s x (BitVec.toNat_add _ _) carry_iff
  case sub => exact writesRegAndFlag_setVFlag_advance s x (toNat_sub_eq_mod _ _) notBorrow_iff
  case subn => exact writesRegAndFlag_setVFlag_advance s x (toNat_sub_eq_mod _ _) notBorrow_iff
  case shr => exact writesRegAndFlag_setVFlag_advance s x (BitVec.toNat_ushiftRight _ _) lowBit_iff
  case shl => exact writesRegAndFlag_setVFlag_advance s x (toNat_shiftLeft_one _) highBit_iff

/-! ### The random byte (R82) -/

theorem rndByte_of_rndIn {s : State} {b : Byte} (h : s.rndIn = some b) : s.rndByte = b := by
  rw [State.rndByte, h, Option.getD_some]

/-- Settles O24: `V[x]` receives the masked byte, and a mask has no bit outside itself. -/
theorem randomWritesTheMaskedByte : Obligations.RandomWritesTheMaskedByte := by
  unfold Obligations.RandomWritesTheMaskedByte
  intro s x nn
  have hexec : exec (.rnd x nn) s = .next (s.setV x (nn &&& s.rndByte)).drawn.advance := rfl
  have hV : (s.setV x (nn &&& s.rndByte)).drawn.advance.getV x = nn &&& s.rndByte := by simp
  have frame : SameExcept [.V, .draws, .pc] s _ := exec_sameExcept hexec
  refine ⟨_, hexec, hV, ?_, fun _ => rndByte_of_rndIn, fun r hr => exec_getV hexec (List.ne_of_not_mem_cons hr), rfl, rfl,
    frame.mono (by simp)⟩
  rw [hV, BitVec.and_comm, ← BitVec.and_assoc, BitVec.not_and_self]
  exact BitVec.zero_and

/-- The state with another `rnd` input and another draw counter, which are the model's own (log 2). -/
def State.withRnd (s : State) (b : Option Byte) (d : Nat) : State := { s with rndIn := b, draws := d }

/-- The same result, with the two fields replaced in the state a success reaches. -/
def resultWithRnd (b : Option Byte) (d : Nat) : Result → Result
  | .next t => .next (t.withRnd b d)
  | .fault f => .fault f
  | .refused q => .refused q

section
variable (s : State) (b : Option Byte) (d : Nat)

theorem skipIf_withRnd (c : Bool) : skipIf c (s.withRnd b d) = resultWithRnd b d (skipIf c s) := by
  cases c <;> rfl

theorem withMemCheck_withRnd {k k' : Result} (a n : Nat) (hk : k' = resultWithRnd b d k) :
    withMemCheck a n k' = resultWithRnd b d (withMemCheck a n k) := by
  subst hk
  unfold withMemCheck
  split <;> rfl

theorem pop_withRnd : (s.withRnd b d).pop = s.pop.map fun (a, t) => (a, t.withRnd b d) := by
  unfold State.pop
  rw [apply_dite (Option.map _)]
  rfl

theorem pushPc_withRnd : (s.withRnd b d).pushPc = s.pushPc.map (·.withRnd b d) := by
  unfold State.pushPc
  rw [apply_dite (Option.map _)]
  rfl

theorem highestKey_withRnd : (s.withRnd b d).highestKey = s.highestKey := by
  have frame : SameExcept [.draws, .host] s (s.withRnd b d) := by
    intro e he
    apply Elem.same_of_get_eq
    cases e <;> simp_all [Elem.get, State.withRnd]
  exact frame.highestKey_eq

/-- R82: an instruction other than `Cxnn` neither reads nor writes the two fields. -/
theorem exec_withRnd {i : Instr} (hi : ∀ x nn, i ≠ .rnd x nn) :
    exec i (s.withRnd b d) = resultWithRnd b d (exec i s) := by
  cases i
  case rnd x nn => exact absurd rfl (hi x nn)
  case ret =>
    simp only [exec, execRet, pop_withRnd]
    cases s.pop <;> rfl
  case call =>
    simp only [exec, execCall, pushPc_withRnd]
    cases s.pushPc <;> rfl
  case seImm | sneImm | seReg | sneReg => exact skipIf_withRnd s b d _
  case skp x | sknp x =>
    simp only [exec, execSkp, execSknp]
    rw [show (s.withRnd b d).getV x = s.getV x from rfl]
    cases keyIndex (s.getV x)
    · rfl
    · exact skipIf_withRnd s b d _
  case ldVxK =>
    simp only [exec, execLdVxK, highestKey_withRnd]
    cases s.highestKey <;> rfl
  case ldB | stRegs | ldRegs => exact withMemCheck_withRnd b d _ _ rfl
  case drw =>
    refine withMemCheck_withRnd b d _ _ ?_
    rw [apply_ite (resultWithRnd b d)]
    rfl
  all_goals rfl

end

/-- Settles O20: replacing the two fields before an instruction other than `Cxnn` replaces them in its result. -/
theorem onlyRandomReadsTheRandomByte : Obligations.OnlyRandomReadsTheRandomByte := by
  unfold Obligations.OnlyRandomReadsTheRandomByte
  intro i s b d hi
  have hexec : exec i { s with rndIn := b, draws := d } = resultWithRnd b d (exec i s) := exec_withRnd s b d hi
  rw [hexec]
  exact ⟨fun _ ht => congrArg (resultWithRnd b d) ht, fun _ hf => congrArg (resultWithRnd b d) hf⟩

end Sys2Proof.Machine
end

section
/-! PROOFS. Index register and memory transfer (spec/42_index_memory.md): what a write of `I` leaves alone, the memory check
out of range, and the bytes a checked store or load moves. -/

namespace Sys2Proof.Machine

/-! ### The index register (R85 to R87) -/

theorem writesI_setI_advance (s : State) {v : Word} {n : Nat} (hv : v.toNat = n) : WritesI n s (s.setI v).advance := by
  refine ⟨hv, rfl, fun e he => Elem.same_of_get_eq _ _ ?_⟩
  obtain ⟨hI, hpc⟩ : e ≠ .I ∧ e ≠ .pc := by simpa using he
  simp [hI, hpc]

@[simp] theorem toNat_addr16 (nnn : BitVec 12) : (addr16 nnn).toNat = nnn.toNat :=
  BitVec.toNat_setWidth_of_le (by decide)

@[simp] theorem toNat_byte16 (v : Byte) : (byte16 v).toNat = v.toNat :=
  BitVec.toNat_setWidth_of_le (by decide)

/-- Five times a byte is at most 1275, so the product of R87 is not reduced. -/
theorem toNat_five_mul_byte16 (v : Byte) : (5 * byte16 v).toNat = 5 * v.toNat := by
  have := v.isLt
  rw [BitVec.toNat_mul, toNat_byte16]
  exact Nat.mod_eq_of_lt (show 5 * v.toNat < 65536 by omega)

/-- Settles O30: each is a write of `I` and the advance of `pc`. -/
theorem indexInstructionsWriteI : Obligations.IndexInstructionsWriteI := by
  unfold Obligations.IndexInstructionsWriteI
  intro s x nnn
  refine ⟨⟨_, rfl, ?ldI⟩, ⟨_, rfl, ?addI⟩, ⟨_, rfl, ?ldF⟩⟩
  case ldI => exact writesI_setI_advance s (toNat_addr16 nnn)
  case addI => exact writesI_setI_advance s (by simp)
  case ldF => exact writesI_setI_advance s (toNat_five_mul_byte16 _)

/-! ### Checked stores and loads (R36, R37) -/

section
variable {s t : State} {x : Reg}

/-- A range that is not empty and leaves memory ends the access before any effect (R36). -/
theorem withMemCheck_of_lt {a n : Nat} (k : Result) (hn : 0 < n) (h : 4096 < a + n) :
    withMemCheck a n k = .fault .outOfBounds := by
  have hcheck : ¬ memCheck a n = true := by
    rw [memCheck_iff]
    omega
  exact withMemCheck_fault.2 (.inl ⟨Bool.eq_false_iff.2 hcheck, rfl⟩)

theorem State.memRead_memWrite_add (s : State) (a : Nat) (bs : List Byte) {k : Nat} (hk : k < bs.length) :
    (s.memWrite a bs).memRead (a + k) = bs.getD k 0 := by
  rw [State.memRead_memWrite, if_pos ⟨Nat.le_add_right a k, Nat.add_lt_add_left hk a⟩, Nat.add_sub_cancel_left]

theorem sameMemOutside_memWrite_advance (s : State) (a : Nat) (bs : List Byte) :
    SameMemOutside a bs.length s (s.memWrite a bs).advance := by
  intro k hk
  have hout : ¬ (a ≤ k ∧ k < a + bs.length) := by omega
  exact (s.memRead_memWrite a bs k).trans (if_neg hout)

/-- After a `Fx33` the three bytes at `I` are the digits. -/
theorem exec_ldB_memRead {k : Nat} (h : exec (.ldB x) s = .next t) (hk : k < 3) :
    t.memRead (s.I.toNat + k) = (bcdBytes (s.getV x)).getD k 0 := by
  obtain ⟨_, rfl⟩ := execLdB_next.1 h
  exact s.memRead_memWrite_add s.addrI (bcdBytes (s.getV x)) hk

theorem exec_ldB_sameMemOutside (h : exec (.ldB x) s = .next t) : SameMemOutside s.I.toNat 3 s t := by
  obtain ⟨_, rfl⟩ := execLdB_next.1 h
  exact sameMemOutside_memWrite_advance s s.addrI (bcdBytes (s.getV x))

theorem exec_stRegs_sameMemOutside (h : exec (.stRegs x) s = .next t) :
    SameMemOutside s.I.toNat (regCount x) s t := by
  obtain ⟨_, rfl⟩ := execStRegs_next.1 h
  rw [← s.firstRegs_length x]
  exact sameMemOutside_memWrite_advance s s.addrI (s.firstRegs x)

/-- After a `Fx65` register `r` is the byte at `I + r`, for each register loaded. -/
theorem exec_ldRegs_getV {r : Reg} (h : exec (.ldRegs x) s = .next t) (hr : r ≤ x) :
    t.getV r = s.memRead (s.I.toNat + r.val) := by
  obtain ⟨_, rfl⟩ := execLdRegs_next.1 h
  exact (s.getV_loadRegs x s.addrI r).trans (if_pos hr)

end

/-- Settles O31: the three bytes written are the digits, and a digit fits its byte. -/
theorem bcdStoresThreeDigits : Obligations.BcdStoresThreeDigits := by
  unfold Obligations.BcdStoresThreeDigits
  intro s x v
  refine ⟨fun h => ?_, withMemCheck_of_lt _ (by decide)⟩
  have hv : v < 256 := (s.getV x).isLt
  obtain ⟨t, hexec⟩ : ∃ t, exec (.ldB x) s = .next t := ⟨_, execLdB_next.2 ⟨h, rfl⟩⟩
  have digit {k d : Nat} (hk : k < 3) (hd : d < 256) (hb : (bcdBytes (s.getV x)).getD k 0 = BitVec.ofNat 8 d) :
      (t.memRead (s.I.toNat + k)).toNat = d := by
    rw [exec_ldB_memRead hexec hk, hb, BitVec.toNat_ofNat, Nat.mod_eq_of_lt hd]
  exact ⟨t, hexec, digit (k := 0) (by decide) (by omega) rfl, digit (k := 1) (by decide) (by omega) rfl,
    digit (k := 2) (by decide) (by omega) rfl, exec_ldB_sameMemOutside hexec, exec_pc hexec, exec_sameExcept hexec⟩

/-- Settles O32: a `Fx55` that passes its check stores the first registers, and nothing outside their range. -/
theorem storeRegistersWritesTheRange : Obligations.StoreRegistersWritesTheRange := by
  unfold Obligations.StoreRegistersWritesTheRange
  intro s x
  refine ⟨fun h => ?_, withMemCheck_of_lt _ (Nat.succ_pos _)⟩
  obtain ⟨t, hexec⟩ : ∃ t, exec (.stRegs x) s = .next t := ⟨_, execStRegs_next.2 ⟨h, rfl⟩⟩
  exact ⟨t, hexec, fun _ => exec_stRegs_memRead hexec, exec_stRegs_sameMemOutside hexec, exec_pc hexec,
    exec_sameExcept hexec⟩

/-- Settles O33: the load passes the check its store has passed, and reads the bytes the store left. -/
theorem loadRegistersReadsTheRangeAndRoundTrips : Obligations.LoadRegistersReadsTheRangeAndRoundTrips := by
  unfold Obligations.LoadRegistersReadsTheRangeAndRoundTrips
  refine ⟨fun s x => ⟨fun h => ?load, withMemCheck_of_lt _ (Nat.succ_pos _)⟩, fun s t t' x hst hmem hI => ?roundTrip⟩
  case load =>
    obtain ⟨t, hexec⟩ : ∃ t, exec (.ldRegs x) s = .next t := ⟨_, execLdRegs_next.2 ⟨h, rfl⟩⟩
    exact ⟨t, hexec, fun _ => exec_ldRegs_getV hexec, fun _ hk => exec_getV hexec (not_le.2 hk), exec_pc hexec,
      exec_sameExcept hexec⟩
  case roundTrip =>
    have hrange : t'.addrI + regCount x ≤ 4096 := by
      rw [State.addrI, hI]
      exact (execStRegs_next.1 hst).1
    obtain ⟨u, hexec⟩ : ∃ u, exec (.ldRegs x) t' = .next u := ⟨_, execLdRegs_next.2 ⟨hrange, rfl⟩⟩
    have hIkept : u.I = t'.I := exec_get hexec (e := .I) (by simp [changes])
    refine ⟨u, hexec, fun k hk => ?_, hIkept.trans hI⟩
    calc u.getV k
      _ = t'.memRead (s.I.toNat + k.val) := hI ▸ exec_ldRegs_getV hexec hk
      _ = t.memRead (s.I.toNat + k.val) := hmem _
      _ = s.getV k := exec_stRegs_memRead hst hk

end Sys2Proof.Machine
end

section
/-! PROOFS. Display (spec/43_display.md): when a sprite draw succeeds, which cells it toggles, what its flag reports, and
that a second draw of the same sprite addresses the same cells. -/

namespace Sys2Proof.Machine

/-- Settles O35: the clear is the whole effect on cells. -/
theorem clearScreenClearsEveryCell : Obligations.ClearScreenClearsEveryCell := by
  unfold Obligations.ClearScreenClearsEveryCell
  intro s
  obtain ⟨t, hexec, ht⟩ : ∃ t, exec .cls s = .next t ∧ t = (s.clearCells.setDrawPending true).advance := ⟨_, rfl, rfl⟩
  exact ⟨t, hexec, fun k _ => by simp [ht], by simp [ht], exec_pc hexec, exec_sameExcept hexec⟩

/-! ### The sprite draw (R94, R95) -/

/-- `Dxyn` completes exactly when it passes its two checks. -/
theorem exec_drw_completes_iff {s : State} {x y : Reg} {n : Nat} : (∃ t, exec (.drw x y n) s = .next t) ↔
    (n = 0 ∨ s.I.toNat + n ≤ 4096) ∧ ∀ k, inSprite s x y n k → k < 2048 := by
  simp only [← mem_drawSet]
  obtain ⟨hbytes, hcells, hok⟩ | ⟨hcheck, hfail⟩ := execDrw_cases s x y n
  · exact ⟨fun _ => ⟨memCheck_iff.1 hbytes, hcells⟩, fun _ => ⟨_, hok⟩⟩
  · refine ⟨fun ⟨_, ht⟩ => (nomatch hfail.symm.trans ht), fun ⟨hbytes, hcells⟩ => ?_⟩
    obtain hmem | ⟨k, hk, hout⟩ := hcheck
    · exact nomatch hmem.symm.trans (memCheck_iff.2 hbytes)
    · exact absurd (hcells k hk) (Nat.not_lt.2 hout)

theorem flagByte_eq_one_iff {f : Bool} : flagByte f = 1 ↔ f = true := by
  cases f <;> decide

section
variable {s t : State} {x y : Reg} {n k : Nat} (h : exec (.drw x y n) s = .next t)
include h

theorem exec_drw_lt_of_inSprite (hk : inSprite s x y n k) : k < 2048 :=
  (exec_drw_completes_iff.1 ⟨t, h⟩).2 k hk

theorem exec_drw_cell_of_inSprite (hk : inSprite s x y n k) : t.cell k = !s.cell k := by
  have hlt := exec_drw_lt_of_inSprite h hk
  obtain rfl := execDrw_next h
  simp [State.cell_draw, hlt, mem_drawSet, hk]

theorem exec_drw_cell_of_not_inSprite (hk : ¬ inSprite s x y n k) : t.cell k = s.cell k := by
  obtain hlt | hout := Nat.lt_or_ge k 2048
  · obtain rfl := execDrw_next h
    simp [State.cell_draw, hlt, mem_drawSet, hk]
  · rw [State.cell_out t k hout, State.cell_out s k hout]

/-- The flag is the collision of the cells before the draw. -/
theorem exec_drw_getV_flag : t.getV 15 = flagByte (collision s (s.drawSet x y n)) := by
  obtain rfl := execDrw_next h
  simp

theorem exec_drw_flag_eq_one_iff : t.getV 15 = 1 ↔ ∃ k, inSprite s x y n k ∧ s.cell k = true := by
  simp only [exec_drw_getV_flag h, flagByte_eq_one_iff, collision_iff, mem_drawSet]

theorem exec_drw_flag_eq_zero_or_one : t.getV 15 = 0 ∨ t.getV 15 = 1 :=
  exec_drw_getV_flag h ▸ flagByte_eq_zero_or_one _

/-- A draw moves none of what names its cells, so long as the flag is not one of its coordinates (R94 (j)). -/
theorem exec_drw_inSprite_iff (hx : x ≠ 15) (hy : y ≠ 15) : inSprite t x y n k ↔ inSprite s x y n k := by
  have hmem (a : Nat) : t.memRead a = s.memRead a := exec_sameExcept h .mem (by simp [changes]) a
  have hI : t.I = s.I := exec_sameExcept h .I (by simp [changes])
  simp only [inSprite, hmem, hI, exec_getV h (r := x) hx, exec_getV h (r := y) hy]

end

/-- Settles O36: both checks pass, so the draw happens, and the flag is the collision of the cells before it. -/
theorem drawTogglesTheSpriteAndReportsCollision : Obligations.DrawTogglesTheSpriteAndReportsCollision := by
  unfold Obligations.DrawTogglesTheSpriteAndReportsCollision
  intro s x y n hbytes hcells
  obtain ⟨t, hexec⟩ := exec_drw_completes_iff.2 ⟨hbytes, hcells⟩
  have frame : SameExcept [.V, .fb, .drawPending, .pc] s t := exec_sameExcept hexec
  refine ⟨t, hexec, fun k _ => ⟨exec_drw_cell_of_inSprite hexec, exec_drw_cell_of_not_inSprite hexec⟩,
    (exec_drw_flag_eq_one_iff hexec).2, fun hclear => ?zero, fun r hr => exec_getV hexec (List.ne_of_not_mem_cons hr),
    ?pending, exec_pc hexec, frame.mono (by simp)⟩
  case zero =>
    refine (exec_drw_flag_eq_zero_or_one hexec).resolve_right fun hone => ?_
    obtain ⟨k, hk, hset⟩ := (exec_drw_flag_eq_one_iff hexec).1 hone
    exact nomatch (hclear k hk).symm.trans hset
  case pending =>
    obtain rfl := execDrw_next hexec
    simp

/-- Settles O37: the second draw addresses the cells of the first, so it toggles them back and collides with those that
the first one set. -/
theorem drawingTwiceRestoresTheFramebuffer : Obligations.DrawingTwiceRestoresTheFramebuffer := by
  unfold Obligations.DrawingTwiceRestoresTheFramebuffer
  intro s t x y n hx hy hst
  have hsprite {k : Nat} : inSprite t x y n k ↔ inSprite s x y n k := exec_drw_inSprite_iff hst hx hy
  obtain ⟨hbytes, hcells⟩ := exec_drw_completes_iff.1 ⟨t, hst⟩
  have hI : t.I = s.I := exec_sameExcept hst .I (by simp [changes])
  obtain ⟨u, htu⟩ : ∃ u, exec (.drw x y n) t = .next u :=
    exec_drw_completes_iff.2 ⟨hI ▸ hbytes, fun k hk => hcells k (hsprite.1 hk)⟩
  refine ⟨u, htu, State.fb_ext fun k _ => ?restored, ?flag, exec_drw_flag_eq_zero_or_one htu⟩
  case restored =>
    by_cases hk : inSprite s x y n k
    · rw [exec_drw_cell_of_inSprite htu (hsprite.2 hk), exec_drw_cell_of_inSprite hst hk, Bool.not_not]
    · rw [exec_drw_cell_of_not_inSprite htu (mt hsprite.1 hk), exec_drw_cell_of_not_inSprite hst hk]
  case flag =>
    rw [exec_drw_flag_eq_one_iff htu]
    constructor
    · rintro ⟨k, hclear, hset⟩
      refine ⟨k, ?_, hset⟩
      by_contra hk
      have hkept : t.cell k = s.cell k := exec_drw_cell_of_not_inSprite hst (mt hsprite.2 hk)
      exact nomatch hclear.symm.trans (hkept.symm.trans hset)
    · rintro ⟨k, hk, hset⟩
      have htoggled : t.cell k = !s.cell k := exec_drw_cell_of_inSprite hst (hsprite.1 hk)
      exact ⟨k, by simpa [htoggled] using hset, hset⟩

end Sys2Proof.Machine
end

section
/-! PROOFS. Keypad and timers (spec/44_keypad_timers.md): the key a register names and the highest key held, on the
conditions the statements give, and the timers as plain writes. -/

namespace Sys2Proof.Machine

section
variable {s : State} {x : Reg}

/-! ### Key skips (R100, R101) -/

theorem execSkp_of_toNat_eq {k : Fin 16} (h : (s.getV x).toNat = k.val) : execSkp x s = skipIf (s.keyHeld k) s := by
  rw [execSkp, keyIndex_some.2 h]

theorem execSknp_of_toNat_eq {k : Fin 16} (h : (s.getV x).toNat = k.val) : execSknp x s = skipIf (!s.keyHeld k) s := by
  rw [execSknp, keyIndex_some.2 h]

theorem execSkp_of_lt (h : 15 < (s.getV x).toNat) : execSkp x s = .fault .outOfBounds := by
  rw [execSkp, keyIndex_none.2 h, raise]

theorem execSknp_of_lt (h : 15 < (s.getV x).toNat) : execSknp x s = .fault .outOfBounds := by
  rw [execSknp, keyIndex_none.2 h, raise]

/-! ### The key wait (R102) -/

theorem State.highestKey_eq_none (h : ∀ k, s.keyHeld k = false) : s.highestKey = none :=
  (s.highestKeyBelow_none 16 le_rfl).2 fun k _ => h k

/-- A held key above which none is held is the highest: of two such keys neither is above the other. -/
theorem State.highestKey_eq_some {k : Fin 16} (hk : s.keyHeld k = true) (habove : ∀ j, k < j → s.keyHeld j = false) :
    s.highestKey = some k.val := by
  obtain ⟨_, hnone⟩ | ⟨m, hm, hheld, habove'⟩ := s.highestKey_cases
  · simp [hnone k] at hk
  · have hle : m ≤ k := not_lt.1 fun hlt => by simp [habove m hlt] at hheld
    have hge : k ≤ m := not_lt.1 fun hlt => by simp [habove' k hlt] at hk
    rw [hm, le_antisymm hle hge]

theorem execLdVxK_of_none_held (h : ∀ k, s.keyHeld k = false) : execLdVxK x s = .next s := by
  rw [execLdVxK, State.highestKey_eq_none h]

theorem execLdVxK_of_highest {k : Fin 16} (hk : s.keyHeld k = true) (habove : ∀ j, k < j → s.keyHeld j = false) :
    execLdVxK x s = .next (s.setV x (BitVec.ofNat 8 k.val)).advance := by
  rw [execLdVxK, State.highestKey_eq_some hk habove]

/-! ### The sound signal (R127) -/

theorem MachineState.soundOn_iff {m : MachineState} : m.soundOn = true ↔ 0 < m.soundTimer.toNat := decide_eq_true_iff

end

/-- Settles O38: with a key named each is a skip, `ExA1` on the negated test; with none named each raises. -/
theorem keySkipsTestOneKey : Obligations.KeySkipsTestOneKey := by
  unfold Obligations.KeySkipsTestOneKey
  intro s x
  refine ⟨fun k hk => ⟨?skp, ?sknp⟩, fun h => ⟨execSkp_of_lt h, execSknp_of_lt h⟩⟩
  case skp =>
    simp only [exec, execSkp_of_toNat_eq hk]
    exact skipIf_movesPc s Iff.rfl
  case sknp =>
    have hskip : (!s.keyHeld k) = true ↔ ¬ s.keyHeld k = true := by simp
    simpa only [exec, execSknp_of_toNat_eq hk, ite_not] using skipIf_movesPc s hskip

/-- Settles O39: the two outcomes of the wait, of which the second writes one register. -/
theorem keyWaitTakesTheHighestHeldKey : Obligations.KeyWaitTakesTheHighestHeldKey := by
  unfold Obligations.KeyWaitTakesTheHighestHeldKey
  exact fun s x => ⟨execLdVxK_of_none_held,
    fun k hk habove => ⟨_, execLdVxK_of_highest hk habove, writesReg_setV_advance s x _⟩⟩

/-- Settles O40: `Fx07` is a write of `V[x]`, and `Fx15` a write of the timer framed by its row of R27. -/
theorem delayTimerIsReadAndSet : Obligations.DelayTimerIsReadAndSet := by
  unfold Obligations.DelayTimerIsReadAndSet
  intro s x
  have hset : exec (.ldDTVx x) s = .next (s.setDelay (s.getV x)).advance := rfl
  exact ⟨⟨_, rfl, writesReg_setV_advance s x s.delayTimer⟩, ⟨_, hset, rfl, exec_pc hset, exec_sameExcept hset⟩⟩

/-- Settles O41: the signal follows the timer, and the frame of `Fx18` holds the outputs to the host. -/
theorem soundTimerIsSetWithoutAnEvent : Obligations.SoundTimerIsSetWithoutAnEvent := by
  unfold Obligations.SoundTimerIsSetWithoutAnEvent
  intro s x
  have hset : exec (.ldSTVx x) s = .next (s.setSound (s.getV x)).advance := rfl
  exact ⟨_, hset, rfl, MachineState.soundOn_iff, exec_pc hset, exec_sameExcept hset⟩

end Sys2Proof.Machine
end

section
/-! PROOFS. Steps, cycles and host requests (spec/60_exceptions.md section 6): a step as a cycle or as the oldest request,
and the parts of the state each request between cycles writes. -/

namespace Sys2Proof.Machine

section
variable {s t : State}

/-! ### A step is a cycle or a request (R128 to R130) -/

theorem step_of_pending_nil (h : s.pending = []) : step s = cycle s := by
  simp only [step, h]

theorem step_of_pending_cons {op : HostOp} {rest : List HostOp} (h : s.pending = op :: rest) :
    step s = perform op { s with pending := rest } := by
  simp only [step, h]

/-- A request that completes is performed with its result recorded (log 21). -/
theorem perform_of_next {op : HostOp} {r : HostResult} (h : operate op s = .next (t, r)) :
    perform op s = .next { t with outputs := t.outputs ++ [r] } := by
  simp only [perform, h]

theorem perform_of_fault {op : HostOp} {f : Fault} (h : operate op s = .fault f) : perform op s = .fault f := by
  simp only [perform, h]

/-- A cycle runs the instruction its two bytes decode to (R130). -/
theorem cycle_of_decode {i : Instr} (hpc : s.pc.toNat + 1 < 4096)
    (hi : decode [s.memRead s.pc.toNat, s.memRead (s.pc.toNat + 1)] = .accept i) : cycle s = exec i s := by
  have hfetch := s.fetchWord_some.2 ⟨hpc, rfl⟩
  have hword := (decode_pair _ _ [] i).1 hi
  simp only [cycle, hfetch, hword]

theorem operate_cycle_of_next {b : Byte} (h : cycle { s with rndIn := some b } = .next t) :
    operate (.cycle b) s = .next ({ t with rndIn := none }, .ok) := by
  simp only [operate, h]

theorem operate_cycle_fault {b : Byte} {f : Fault} :
    operate (.cycle b) s = .fault f ↔ cycle { s with rndIn := some b } = .fault f := by
  simp only [operate]
  cases cycle { s with rndIn := some b } <;> simp

end

/-- Settles O8: with nothing requested a step is a cycle. -/
theorem stepRunsTheDecodedInstruction : Obligations.StepRunsTheDecodedInstruction := by
  unfold Obligations.StepRunsTheDecodedInstruction
  intro s i hpending hpc hi
  rw [step_of_pending_nil hpending, cycle_of_decode hpc hi]

/-- Settles O9: the requested cycle fetches the same bytes, since neither the request list nor the `rnd` input holds any. -/
theorem requestedCycleRunsTheDecodedInstruction : Obligations.RequestedCycleRunsTheDecodedInstruction := by
  unfold Obligations.RequestedCycleRunsTheDecodedInstruction
  intro s b rest i hpending hpc hi
  have hcycle : cycle { s with pending := rest, rndIn := some b } = exec i { s with pending := rest, rndIn := some b } :=
    cycle_of_decode hpc hi
  rw [step_of_pending_cons hpending, ← hcycle]
  exact ⟨fun t ht => perform_of_next (operate_cycle_of_next ht), fun f hf => perform_of_fault (operate_cycle_fault.2 hf)⟩

/-- Settles O47: performing a request is the operation with its result recorded. -/
theorem stepPerformsTheOldestRequest : Obligations.StepPerformsTheOldestRequest := by
  unfold Obligations.StepPerformsTheOldestRequest
  intro s op rest hpending
  rw [step_of_pending_cons hpending]
  refine ⟨fun t r => perform_of_next, fun f => perform_of_fault, ?_⟩
  rintro rfl
  exact ⟨_, perform_of_next rfl, rfl, rfl, rfl⟩

section
variable (s : State)

/-! ### What each request between cycles writes -/

@[simp] theorem get_setKey {e : Elem} (k : Fin 16) (held : Bool) (he : e ≠ .keypad) :
    e.get (s.setKey k held) = e.get s := by
  cases e with
  | keypad => exact absurd rfl he
  | _ => rfl

theorem sameExcept_setKey (k : Fin 16) (held : Bool) : SameExcept [.keypad] s (s.setKey k held) :=
  fun _ he => Elem.same_of_get_eq _ _ (get_setKey s k held (List.ne_of_not_mem_cons he))

theorem sameExcept_setDrawPending (b : Bool) : SameExcept [.drawPending] s (s.setDrawPending b) :=
  fun _ he => Elem.same_of_get_eq _ _ (get_setDrawPending s b (List.ne_of_not_mem_cons he))

theorem sameExcept_tickOp : SameExcept [.delayTimer, .soundTimer] s s.tickOp := by
  intro e he
  simp only [List.mem_cons, List.not_mem_nil, or_false, not_or] at he
  obtain ⟨hdelay, hsound⟩ := he
  apply Elem.same_of_get_eq
  rw [State.tickOp, get_setSound _ _ hsound, get_setDelay _ _ hdelay]

/-! ### The tick (R125, R126) -/

theorem toNat_tickTimer (v : Byte) : (tickTimer v).toNat = v.toNat - 1 := by
  unfold tickTimer
  split
  next h => simp [h]
  next h => bv_omega

theorem tickResult_eq_soundStopped_iff : s.tickResult = .soundStopped ↔ s.soundTimer.toNat = 1 := by
  simp [State.tickResult, ← BitVec.toNat_inj]

theorem tickResult_cases : s.tickResult = .soundStopped ∨ s.tickResult = .ok := by
  unfold State.tickResult
  split
  · exact .inl rfl
  · exact .inr rfl

end

/-- Settles O45: each timer by `toNat_tickTimer`; a timer of 1 is 0 after the tick, so the event needs no more than the 1. -/
theorem tickDecrementsBothTimers : Obligations.TickDecrementsBothTimers := by
  unfold Obligations.TickDecrementsBothTimers
  intro s
  have hsound : s.tickOp.soundTimer.toNat = s.soundTimer.toNat - 1 := toNat_tickTimer _
  refine ⟨s.tickOp, s.tickResult, rfl, toNat_tickTimer _, hsound, ?_, tickResult_cases s, sameExcept_tickOp s,
    fun x => ⟨⟨_, rfl, rfl⟩, ⟨_, rfl, rfl⟩⟩⟩
  rw [tickResult_eq_soundStopped_iff, hsound]
  omega

/-- R96, R132: the two instructions that write `draw_pending` set it. -/
theorem exec_drawPending {i : Instr} {s t : State} (h : exec i s = .next t) :
    t.drawPending = if Elem.drawPending ∈ changes i then true else s.drawPending := by
  split
  next hi =>
    obtain rfl | ⟨x, y, n, rfl⟩ := drawPending_mem_changes.1 hi
    · obtain rfl := Host.Outcome.next.inj h
      rfl
    · obtain rfl := execDrw_next h
      simp
  next hi => exact exec_get h hi

/-- Settles O46: the frames of the two requests, and `exec_drawPending`. -/
theorem keyWriteAndAckDrawChangeOneFlag : Obligations.KeyWriteAndAckDrawChangeOneFlag := by
  unfold Obligations.KeyWriteAndAckDrawChangeOneFlag
  intro s
  refine ⟨fun k held => ⟨_, rfl, ?_, fun j hj => ?_, sameExcept_setKey s k held⟩,
    ⟨_, rfl, rfl, sameExcept_setDrawPending s false⟩, fun i t h hs => ?_⟩
  · rw [State.keyHeld_setKey, if_pos rfl]
  · rw [State.keyHeld_setKey, if_neg hj]
  · rw [exec_drawPending h, hs, ite_self]

end Sys2Proof.Machine
end

section
/-! PROOFS. Errors (spec/60_exceptions.md sections 1 and 2): when an instruction and a cycle fail, and with what, on the
elements they read; so a failure stays as long as those elements do. -/

namespace Sys2Proof.Machine

/-! ### When an instruction fails (R111 to R113) -/

/-- The causes of an error in an execute stage, by instruction: R111's, R112's and R113's. -/
def failsWith (f : Fault) (s : State) : Instr → Prop
  | .ret => s.sp = 0 ∧ f = .stackUnderflow
  | .call _ => s.sp = 16 ∧ f = .stackOverflow
  | .drw x y n => ((0 < n ∧ 4096 < s.I.toNat + n) ∨ ∃ k, inSprite s x y n k ∧ 2048 ≤ k) ∧ f = .outOfBounds
  | .ldB _ => 4096 < s.I.toNat + 3 ∧ f = .outOfBounds
  | .stRegs x | .ldRegs x => 4096 < s.I.toNat + x.val + 1 ∧ f = .outOfBounds
  | .skp x | .sknp x => 15 < (s.getV x).toNat ∧ f = .outOfBounds
  | _ => False

section
variable {f : Fault} {s t : State} {x y : Reg} {n : Nat}

theorem memCheck_eq_false_iff {a : Nat} : memCheck a n = false ↔ 0 < n ∧ 4096 < a + n := by
  rw [← Bool.not_eq_true, memCheck_iff]
  omega

/-- An access that cannot fail once its check has passed fails exactly by the check. -/
theorem withMemCheck_next_fault {a : Nat} :
    withMemCheck a n (.next t) = .fault f ↔ (0 < n ∧ 4096 < a + n) ∧ f = .outOfBounds := by
  simp [withMemCheck_fault, memCheck_eq_false_iff]

theorem execDrw_fault : execDrw x y n s = .fault f ↔
    ((0 < n ∧ 4096 < s.I.toNat + n) ∨ ∃ k, inSprite s x y n k ∧ 2048 ≤ k) ∧ f = .outOfBounds := by
  simp only [← mem_drawSet, ← memCheck_eq_false_iff]
  obtain ⟨hbytes, hcells, hok⟩ | ⟨hcause, hfail⟩ := execDrw_cases s x y n
  · have hno : ¬ (memCheck s.I.toNat n = false ∨ ∃ k, k ∈ s.drawSet x y n ∧ 2048 ≤ k) := by
      rintro (hout | ⟨k, hk, hout⟩)
      · exact nomatch hout.symm.trans hbytes
      · exact absurd (hcells k hk) (Nat.not_lt.2 hout)
    simp only [hok, hno, false_and, reduceCtorEq]
  · rw [hfail, Host.Outcome.fault.injEq, eq_comm]
    exact (and_iff_right hcause).symm

theorem execSkp_fault : execSkp x s = .fault f ↔ 15 < (s.getV x).toNat ∧ f = .outOfBounds := by
  rw [← keyIndex_none]
  unfold execSkp raise
  cases keyIndex (s.getV x) <;> simp [skipIf_eq, eq_comm (a := f)]

theorem execSknp_fault : execSknp x s = .fault f ↔ 15 < (s.getV x).toNat ∧ f = .outOfBounds := by
  rw [← keyIndex_none]
  unfold execSknp raise
  cases keyIndex (s.getV x) <;> simp [skipIf_eq, eq_comm (a := f)]

theorem execLdVxK_ne_fault : execLdVxK x s ≠ .fault f := by
  unfold execLdVxK
  cases s.highestKey <;> nofun

/-- All the ways an instruction can fail. -/
theorem exec_fault {i : Instr} : exec i s = .fault f ↔ failsWith f s i := by
  cases i
  case ret => exact execRet_fault
  case call => exact execCall_fault
  case drw => exact execDrw_fault
  case skp => exact execSkp_fault
  case sknp => exact execSknp_fault
  case ldB => exact withMemCheck_next_fault.trans (by simp [failsWith, State.addrI])
  case stRegs | ldRegs => exact withMemCheck_next_fault.trans (by simp [failsWith, State.addrI, regCount, Nat.add_assoc])
  case ldVxK => exact iff_of_false execLdVxK_ne_fault id
  all_goals exact iff_of_false nofun id

/-! No execute stage raises an error of the decode or of the load (R114, R115). -/

theorem not_failsWith_unknownOpcode {i : Instr} {cls : BitVec 4} {raw : Word} :
    ¬ failsWith (.unknownOpcode cls raw) s i := by
  cases i <;> simp [failsWith]

theorem not_failsWith_loadError {i : Instr} : ¬ failsWith .loadError s i := by
  cases i <;> simp [failsWith]

/-! ### When a cycle and a load fail (R114, R115, R118) -/

/-- A cycle fails in its fetch, in its decode, or in its execute stage. -/
theorem cycle_fault : cycle s = .fault f ↔
    (s.fetchWord = none ∧ f = .outOfBounds) ∨
    ∃ w, s.fetchWord = some w ∧
      ((decodeWord w = none ∧ f = .unknownOpcode (fieldClass w) w) ∨ ∃ i, decodeWord w = some i ∧ failsWith f s i) := by
  unfold cycle raise
  cases s.fetchWord with
  | none => simp [eq_comm]
  | some w =>
    cases hw : decodeWord w with
    | none => simp [hw, eq_comm]
    | some i => simp [hw, exec_fault]

theorem fieldClass_toNat (w : Word) : (fieldClass w).toNat = w.toNat / 4096 := by
  have := w.isLt
  simp only [fieldClass, BitVec.extractLsb'_toNat, Nat.shiftRight_eq_div_pow]
  omega

theorem State.loadOp_eq_none_iff {bs : List Byte} : s.loadOp bs = none ↔ 3584 < bs.length := by
  simp [State.loadOp, Config.progMax]

theorem operate_load_fault {bs : List Byte} :
    operate (.load bs) s = .fault f ↔ 3584 < bs.length ∧ f = .loadError := by
  rw [← State.loadOp_eq_none_iff (s := s)]
  simp only [operate]
  cases s.loadOp bs <;> simp [eq_comm]

theorem cycle_ne_loadError : cycle s ≠ .fault .loadError := by
  rw [Ne, cycle_fault]
  rintro (⟨_, h⟩ | ⟨w, _, ⟨_, h⟩ | ⟨i, _, h⟩⟩)
  · cases h
  · cases h
  · exact not_failsWith_loadError h

/-! ### A failure stays while what the cycle reads stays (R117) -/

/-- The parts that no cycle's failure depends on. -/
abbrev unreadByFailure : List Elem := [.delayTimer, .soundTimer, .keypad, .drawPending, .host]

theorem SameExcept.fetchWord_eq (h : SameExcept unreadByFailure s t) : t.fetchWord = s.fetchWord := by
  have hpc : t.pc = s.pc := h .pc (by decide)
  exact Option.ext fun w => by simp only [State.fetchWord_some, hpc, h.memRead_eq]

theorem SameExcept.inSprite_iff (h : SameExcept unreadByFailure s t) {k : Nat} :
    inSprite t x y n k ↔ inSprite s x y n k := by
  have hI : t.I = s.I := h .I (by decide)
  simp only [inSprite, hI, h.memRead_eq, h.getV_eq]

theorem SameExcept.failsWith_iff (h : SameExcept unreadByFailure s t) {i : Instr} :
    failsWith f t i ↔ failsWith f s i := by
  have hI : t.I = s.I := h .I (by decide)
  have hsp : t.sp = s.sp := h .sp (by decide)
  cases i <;> simp only [failsWith, hI, hsp, h.getV_eq, h.inSprite_iff]

theorem SameExcept.cycle_fault_iff (h : SameExcept unreadByFailure s t) : cycle t = .fault f ↔ cycle s = .fault f := by
  simp only [cycle_fault, h.fetchWord_eq, h.failsWith_iff]

/-- The `rnd` input has no part in a failure. -/
theorem operate_cycle_fault_iff_cycle {b : Byte} : operate (.cycle b) s = .fault f ↔ cycle s = .fault f := by
  have frame : SameExcept [.host] s { s with rndIn := some b } := by
    intro e he
    cases e with
    | host => exact absurd (List.mem_singleton_self _) he
    | _ => exact Elem.same_of_get_eq _ _ rfl
  exact operate_cycle_fault.trans (frame.mono (by simp)).cycle_fault_iff

/-- A tick, a draw acknowledge, an observation and a key write leave all that a failure depends on. -/
theorem operate_sameExcept_unreadByFailure {op : HostOp} {r : HostResult}
    (hop : op = .tick ∨ op = .ackDraw ∨ op = .observe ∨ ∃ k held, op = .setKey k held)
    (h : operate op s = .next (t, r)) : SameExcept unreadByFailure s t := by
  obtain rfl | rfl | rfl | ⟨k, held, rfl⟩ := hop <;> obtain ⟨rfl, _⟩ := Prod.mk.inj (Host.Outcome.next.inj h)
  · exact (sameExcept_tickOp s).mono (by simp)
  · exact (sameExcept_setDrawPending s false).mono (by simp)
  · exact fun _ _ => Elem.same_of_get_eq _ _ rfl
  · exact (sameExcept_setKey s k held).mono (by simp)

/-- In a history a failed operation records its error and changes nothing (R116). -/
theorem history_cons_of_fault {op : HostOp} (h : operate op s = .fault f) (ops : List HostOp) :
    history (op :: ops) s = ((history ops s).1, .error f :: (history ops s).2) := by
  simp only [history, h]

end

/-- Settles O10: the decode stage alone raises it, on the words of R51's table. -/
theorem unknownOpcodeIsRaisedByDecodeAlone : Obligations.UnknownOpcodeIsRaisedByDecodeAlone := by
  unfold Obligations.UnknownOpcodeIsRaisedByDecodeAlone
  refine ⟨fun s cls raw => ?_, fun i s cls raw => mt exec_fault.1 not_failsWith_unknownOpcode⟩
  have hclass : cls = fieldClass raw ↔ cls.toNat = raw.toNat / 4096 := by
    rw [← BitVec.toNat_inj, fieldClass_toNat]
  rw [← decoderRejectsExactlyTheUnknownWords raw, ← hclass, cycle_fault]
  constructor
  · rintro (⟨_, h⟩ | ⟨w, hfetch, ⟨hw, h⟩ | ⟨i, _, h⟩⟩)
    · cases h
    · cases h
      exact ⟨hfetch, hw, rfl⟩
    · exact absurd h not_failsWith_unknownOpcode
  · rintro ⟨hfetch, hw, rfl⟩
    exact .inr ⟨raw, hfetch, .inl ⟨hw, rfl⟩⟩

/-- Settles O11: of the causes in `failsWith` only the call's names this error. -/
theorem stackOverflowOnlyByCallOnFullStack : Obligations.StackOverflowOnlyByCallOnFullStack := by
  unfold Obligations.StackOverflowOnlyByCallOnFullStack
  intro i s
  rw [exec_fault]
  cases i <;> simp [failsWith]

/-- Settles O12: of the causes in `failsWith` only the return's names this error. -/
theorem stackUnderflowOnlyByReturnOnEmptyStack : Obligations.StackUnderflowOnlyByReturnOnEmptyStack := by
  unfold Obligations.StackUnderflowOnlyByReturnOnEmptyStack
  intro i s
  rw [exec_fault]
  cases i <;> simp [failsWith]

/-- Settles O13: the statement lists by error what `failsWith` lists by instruction. -/
theorem outOfBoundsHasExactlyItsCauses : Obligations.OutOfBoundsHasExactlyItsCauses := by
  unfold Obligations.OutOfBoundsHasExactlyItsCauses
  intro i s
  rw [exec_fault]
  cases i <;> simp [failsWith]

/-- Settles O14: no stage of a cycle raises it, and of the other requests only a load can fail. -/
theorem loadErrorOnlyByLoadOfALongImage : Obligations.LoadErrorOnlyByLoadOfALongImage := by
  unfold Obligations.LoadErrorOnlyByLoadOfALongImage
  refine ⟨fun s => cycle_ne_loadError, fun op s => ?_⟩
  cases op with
  | load bs => simp [operate_load_fault]
  | cycle b => simp [operate_cycle_fault, cycle_ne_loadError]
  | reset | tick | setKey | ackDraw | observe => simp [operate]

/-- Settles O16: a cycle's failure depends on none of the parts that `rnd` and the four requests write. -/
theorem failedCycleFailsAgainUntilResetOrLoad : Obligations.FailedCycleFailsAgainUntilResetOrLoad := by
  unfold Obligations.FailedCycleFailsAgainUntilResetOrLoad
  intro s b f h
  have hcycle : cycle s = .fault f := operate_cycle_fault_iff_cycle.1 h
  refine ⟨fun c => operate_cycle_fault_iff_cycle.2 hcycle, fun c op t r hop ht => ?_, history_cons_of_fault h⟩
  exact operate_cycle_fault_iff_cycle.2 ((operate_sameExcept_unreadByFailure hop ht).cycle_fault_iff.2 hcycle)

end Sys2Proof.Machine
end

section
/-! PROOFS. Reset, load and the self-jump (spec/70_reset_and_hazards.md): the parts of the state a reset and a load leave
alone, the bytes a load copies, and a jump to `pc` itself. -/

namespace Sys2Proof.Machine

section
variable {s : State}

/-! ### Reset (R140, R141) -/

/-- A reset leaves the model's own fields alone (log 21). -/
theorem sameExcept_resetOp (s : State) :
    SameExcept [.mem, .V, .I, .pc, .stack, .sp, .delayTimer, .soundTimer, .keypad, .fb, .drawPending] s s.resetOp := by
  intro e he
  cases e with
  | draws => rfl
  | host => exact ⟨rfl, rfl, rfl⟩
  | _ => simp at he

/-! ### Load (R143) -/

theorem operate_load_of_le {bs : List Byte} (h : bs.length ≤ 3584) :
    operate (.load bs) s = .next (s.memWrite 512 bs, .ok) := by
  have hload : s.loadOp bs = some (s.memWrite 512 bs) := if_pos h
  simp only [operate, hload]

theorem sameExcept_memWrite (s : State) (a : Nat) (bs : List Byte) : SameExcept [.mem] s (s.memWrite a bs) :=
  fun _ he => Elem.same_of_get_eq _ _ (get_memWrite s a bs (List.ne_of_not_mem_cons he))

/-- As for a store that also moves `pc`, which no byte of memory depends on. -/
theorem sameMemOutside_memWrite (s : State) (a : Nat) (bs : List Byte) :
    SameMemOutside a bs.length s (s.memWrite a bs) :=
  sameMemOutside_memWrite_advance s a bs

/-! ### The self-jump (R147) -/

/-- A cycle runs the instruction the word it fetches selects (R130). -/
theorem cycle_of_fetchWord_some {w : Word} {i : Instr} (hfetch : s.fetchWord = some w) (hi : decodeWord w = some i) :
    cycle s = exec i s := by
  simp only [cycle, hfetch, hi]

theorem decodeWord_of_toNat_eq_jp {w : Word} {nnn : BitVec 12} (hw : w.toNat = 0x1000 + nnn.toNat) :
    decodeWord w = some (.jp nnn) := by
  have hword : w = BitVec.ofNat 16 (0x1000 + nnn.toNat) := by
    rw [← hw, BitVec.ofNat_toNat, BitVec.setWidth_eq]
  rw [hword]
  exact decodeWord_nnn (row_mem 2) nnn

/-- A jump to where `pc` already is writes what stands there. -/
theorem exec_jp_of_pc_eq {nnn : BitVec 12} (hpc : s.pc.toNat = nnn.toNat) : exec (.jp nnn) s = .next s := by
  have htarget : addr16 nnn = s.pc := BitVec.eq_of_toNat_eq ((toNat_addr16 nnn).trans hpc.symm)
  calc exec (.jp nnn) s
    _ = .next (s.setPc (addr16 nnn)) := rfl
    _ = .next (s.setPc s.pc) := by rw [htarget]
    _ = .next s := rfl

end

/-- Settles O29: the step is a cycle, which fetches the two bytes at `pc` and runs them as a jump to `pc`. -/
theorem selfJumpLeavesTheStateUnchanged : Obligations.SelfJumpLeavesTheStateUnchanged := by
  unfold Obligations.SelfJumpLeavesTheStateUnchanged
  intro s nnn hpending hpc hlast hbytes
  obtain ⟨w, hfetch, hw⟩ := State.fetchWord_of_lt (s := s) (by omega)
  calc step s
    _ = cycle s := step_of_pending_nil hpending
    _ = exec (.jp nnn) s := cycle_of_fetchWord_some hfetch (decodeWord_of_toNat_eq_jp (hw.trans hbytes))
    _ = .next s := exec_jp_of_pc_eq hpc

/-- Settles O44: up to 3584 bytes a load is a write at 512, and beyond that `operate_load_fault`. -/
theorem loadCopiesTheImage : Obligations.LoadCopiesTheImage := by
  unfold Obligations.LoadCopiesTheImage
  intro s bs
  refine ⟨fun hlen => ⟨_, operate_load_of_le hlen, fun k hk => ?_, sameMemOutside_memWrite s 512 bs,
    sameExcept_memWrite s 512 bs⟩, fun hlen => operate_load_fault.2 ⟨hlen, rfl⟩⟩
  rw [State.memRead_memWrite_add s 512 bs hk, List.getD_eq_getElem bs 0 hk]

/-- Settles O43: the Machine State after a reset is a constant, so a second reset writes what stands there. -/
theorem resetIsIdempotentAndForgetsTheStateBefore : Obligations.ResetIsIdempotentAndForgetsTheStateBefore := by
  unfold Obligations.ResetIsIdempotentAndForgetsTheStateBefore
  exact fun s => ⟨s.resetOp, rfl, rfl, sameExcept_resetOp s, rfl⟩

end Sys2Proof.Machine
end

section
/-! PROOFS. The encoder read back (R46, R50): the word of each format as the number that the rows of the opcode map are
stated on, and every well-formed instruction as what its own word decodes to. -/

namespace Sys2Proof

/-! ### Words of each format from their numbers (R46) -/

theorem eq_ofNat_of_toNat_eq {w : Word} {n : Nat} (h : w.toNat = n) : w = BitVec.ofNat 16 n := by
  rw [← h, BitVec.ofNat_toNat, BitVec.setWidth_eq]

theorem wordNNN_eq_ofNat (c : BitVec 4) (nnn : BitVec 12) :
    wordNNN c nnn = BitVec.ofNat 16 (4096 * c.toNat + nnn.toNat) :=
  eq_ofNat_of_toNat_eq (toNat_wordNNN c nnn)

theorem wordXNN_eq_ofNat (c : BitVec 4) (x : Reg) (nn : Byte) :
    wordXNN c x nn = BitVec.ofNat 16 (4096 * c.toNat + 256 * x.val + nn.toNat) :=
  eq_ofNat_of_toNat_eq (toNat_wordXNN c x nn)

theorem wordXYN_eq_ofNat (c : BitVec 4) (x y : Reg) (n : BitVec 4) :
    wordXYN c x y n = BitVec.ofNat 16 (4096 * c.toNat + 256 * x.val + 16 * y.val + n.toNat) :=
  eq_ofNat_of_toNat_eq (toNat_wordXYN c x y n)

/-! In formats `XSS` and `XYS` the low digits are fixed, so they stand with the class in the row's pattern. -/

theorem wordXNN_eq_ofNat_pattern (c : BitVec 4) (x : Reg) (nn : Byte) :
    wordXNN c x nn = BitVec.ofNat 16 (4096 * c.toNat + nn.toNat + 256 * x.val) := by
  rw [wordXNN_eq_ofNat, Nat.add_right_comm]

theorem wordXYN_eq_ofNat_pattern (c : BitVec 4) (x y : Reg) (low : BitVec 4) :
    wordXYN c x y low = BitVec.ofNat 16 (4096 * c.toNat + low.toNat + 256 * x.val + 16 * y.val) := by
  rw [wordXYN_eq_ofNat, Nat.add_right_comm _ _ low.toNat, Nat.add_right_comm _ _ low.toNat]

/-! ### The word of an instruction decodes to it (R50) -/

/-- By format: the encoder's word is the number that the row's clause of `everyRowDecodesItsOperands` speaks of. -/
theorem decodeWord_encode {i : Instr} (h : i.wf = true) : decodeWord (encode i) = some i := by
  obtain ⟨⟨hcls, hret⟩, hnnn, hxnn, hxys, hdrw, hxss⟩ := everyRowDecodesItsOperands
  cases i with
  | cls => exact hcls
  | ret => exact hret
  | jp nnn | call nnn | ldI nnn | jpV0 nnn =>
    simp only [encode, wordNNN_eq_ofNat, BitVec.reduceToNat, Nat.reduceMul, hnnn]
  | seImm x nn | sneImm x nn | ldImm x nn | addImm x nn | rnd x nn =>
    simp only [encode, wordXNN_eq_ofNat, BitVec.reduceToNat, Nat.reduceMul, hxnn]
  | seReg x y | ldReg x y | orReg x y | andReg x y | xorReg x y | addReg x y | subReg x y | shr x y | subnReg x y
  | shl x y | sneReg x y =>
    simp only [encode, wordXYN_eq_ofNat_pattern, BitVec.reduceToNat, Nat.reduceMul, Nat.reduceAdd, hxys]
  | drw x y n =>
    -- The height fits its field, so the field holds it unreduced.
    have hn : n < 16 := of_decide_eq_true h
    have hlow : (BitVec.ofNat 4 n).toNat = n := Nat.mod_eq_of_lt hn
    rw [encode, wordXYN_eq_ofNat, hlow]
    exact hdrw x y n hn
  | skp x | sknp x | ldVxDT x | ldVxK x | ldDTVx x | ldSTVx x | addI x | ldF x | ldB x | stRegs x | ldRegs x =>
    simp only [encode, wordXNN_eq_ofNat_pattern, BitVec.reduceToNat, Nat.reduceMul, Nat.reduceAdd, hxss]

/-- Settles O3: the bytes of a word decode as the word does. -/
theorem decodeOfEncodeIsTheInstruction : Obligations.DecodeOfEncodeIsTheInstruction := by
  unfold Obligations.DecodeOfEncodeIsTheInstruction
  exact fun i h => (decode_wordBytes (encode i) i).2 (decodeWord_encode h)

end Sys2Proof
end
